-- ==== Sys2Proof/Word.lean ====
section
/-! DEFINITION. The value types of 00 R8, R9: bytes (field elements), words, byte addresses. -/

namespace Sys2Proof

/-- A byte 0..255, which is also a field element of GF(2^8) (00 R9). -/
abbrev Byte := BitVec 8

/-- A 32-bit unsigned value: bus data and command words (00 R9, R6 DATA_W). -/
abbrev Word := BitVec 32

/-- A byte address of the host port, 0x0000..0x1FFF (00 R6 ADDR_W, 20 R50). -/
abbrev Addr := BitVec 13

end Sys2Proof
end

