-- ==== Sys2Proof/Config.lean ====
section
/-! DEFINITION. What this hardware fixes (00 R6, 10 R27) and the free values the spec leaves open.
A free value is a constant with no body: nothing can be proved of what it is. -/

namespace Sys2Proof

/-- The value of the ID register (10 R27): 'K', 'S', 'C', version 1. -/
def Config.idWord : Word := 0x4B534301

/-- FREE VALUE. LAT(op, n) less one (00 R6, 70 R210): OPEN, a function of the op and n fields only.
DESIGN CHOICE, log entry 3. -/
opaque Config.freeLatency : Byte → Byte → Nat

/-- LAT(op, n), at least 1 (00 R6, 70 R210). No rule of the model depends on the number. -/
def Config.latency (op n : Byte) : Nat := Config.freeLatency op n + 1

/-- FREE VALUE. INIT_LAT less one (00 R6, 70 R202): OPEN. DESIGN CHOICE, log entry 3. -/
opaque Config.freeInitLatency : Nat

/-- INIT_LAT, at least 1 (00 R6, 70 R202). -/
def Config.initLatency : Nat := Config.freeInitLatency + 1

/-- FREE VALUE. How many host accesses are served while a unit of latency `lat` is busy, when it
became busy at event `tick` (00 R12: completion is "taken at any later point, under weak fairness",
30 R91). DESIGN CHOICE, log entries 2 and 3. -/
opaque Config.freeSlack : (lat tick : Nat) → Nat

/-- FREE VALUE. What COEF[k] reads as to the engine after the reset of launch `launch` until it is
written (70 R208: "some stored value, which this spec does not name"). DESIGN CHOICE, log entry 1. -/
opaque Config.freeCoef : (launch k : Nat) → Byte

/-- FREE VALUE. The x that POINT[j] reads as after the reset of launch `launch` until it is written (70
R208). DESIGN CHOICE, log entry 1. -/
opaque Config.freePointX : (launch j : Nat) → Byte

/-- FREE VALUE. The y that POINT[j] reads as after the reset of launch `launch` until it is written (70
R208). DESIGN CHOICE, log entry 1. -/
opaque Config.freePointY : (launch j : Nat) → Byte

end Sys2Proof
end

