-- ==== Sys2Proof/Syntax.lean ====
section
/-! DEFINITION. The command set KSCORE-1: one constructor per row of the opcode map (30 R82). -/

namespace Sys2Proof

/-- A legal command. Every operand is an unsigned 8-bit field of the command word, used with no
extension, scaling or shift (30 R81), so every value of this type is a command the map has. -/
inductive Instr where
  /-- No operation (40 R111). -/
  | nop
  /-- RES <- a ⊕ b (40 R112). -/
  | add (a b : Byte)
  /-- RES <- a ⊗ b (40 R113). -/
  | mul (a b : Byte)
  /-- RES <- a ⊘ b (40 R114). -/
  | div (a b : Byte)
  /-- RES <- 1 ⊘ b (40 R115). -/
  | inv (b : Byte)
  /-- RES <- the polynomial COEF[0..n-1] at x (41 R131). -/
  | eval (n x : Byte)
  /-- RES <- the interpolation of POINT[0..n-1] at 0 (42 R151). -/
  | lagr (n : Byte)
  deriving DecidableEq, Repr

end Sys2Proof
end

