-- ==== Sys2Proof/Decode.lean ====
section
/-! DEFINITION. Decoding of command words, total on every word (30 R80-R85), and the encoder written from
the same map (30 R82, R93). -/

namespace Sys2Proof

/-- Why a word is no command. The hardware reports both as ERR.ILL (60 R172; log entry 17). -/
inductive Illegal where
  /-- The op value is not in the map (30 R84). -/
  | unassignedOpcode
  /-- The op value is in the map, a field the map marks 0 is not 0 (30 R83). -/
  | reservedField
  deriving DecidableEq, Repr

/-- What decoding answers: "Cmd | Illegal" (30 R85). -/
inductive Decoded where
  | cmd (i : Instr)
  | illegal (why : Illegal)
  deriving DecidableEq, Repr

/-- The op field, bits 31:24 (30 R80). -/
def opField (w : Word) : Byte := w.extractLsb' 24 8

/-- The n field, bits 23:16 (30 R80). -/
def nField (w : Word) : Byte := w.extractLsb' 16 8

/-- The a field, bits 15:8 (30 R80). -/
def aField (w : Word) : Byte := w.extractLsb' 8 8

/-- The b field, bits 7:0 (30 R80). -/
def bField (w : Word) : Byte := w.extractLsb' 0 8

/-- The command if the fields marked 0 are 0, else illegal (30 R83). -/
def ifReservedZero (zero : Bool) (i : Instr) : Decoded :=
  if zero then .cmd i else .illegal .reservedField

/-- The decode function of 30 R85. -/
def decode (w : Word) : Decoded :=
  let op := opField w
  let n := nField w
  let a := aField w
  let b := bField w
  if op = 0x00 then ifReservedZero (n == 0 && a == 0 && b == 0) .nop
  else if op = 0x01 then ifReservedZero (n == 0) (.add a b)
  else if op = 0x02 then ifReservedZero (n == 0) (.mul a b)
  else if op = 0x03 then ifReservedZero (n == 0) (.div a b)
  else if op = 0x04 then ifReservedZero (n == 0 && a == 0) (.inv b)
  else if op = 0x10 then ifReservedZero (a == 0) (.eval n b)
  else if op = 0x20 then ifReservedZero (a == 0 && b == 0) (.lagr n)
  else .illegal .unassignedOpcode

/-- A word decodes to some command. -/
def legalWord (w : Word) : Bool :=
  match decode w with
  | .cmd _ => true
  | .illegal _ => false

/-- The word {op, n, a, b} (30 R80). -/
def packFields (op n a b : Byte) : Word := op ++ n ++ a ++ b

/-- The encoding of a command (30 R82, R93). -/
def encode : Instr → Word
  | .nop => packFields 0x00 0x00 0x00 0x00
  | .add a b => packFields 0x01 0x00 a b
  | .mul a b => packFields 0x02 0x00 a b
  | .div a b => packFields 0x03 0x00 a b
  | .inv b => packFields 0x04 0x00 0x00 b
  | .eval n x => packFields 0x10 n 0x00 x
  | .lagr n => packFields 0x20 n 0x00 0x00

/-- The match value of a command's row in the opcode map (30 R82). -/
def rowMatch : Instr → Word
  | .nop => 0x00000000
  | .add _ _ => 0x01000000
  | .mul _ _ => 0x02000000
  | .div _ _ => 0x03000000
  | .inv _ => 0x04000000
  | .eval _ _ => 0x10000000
  | .lagr _ => 0x20000000

/-- The mask of a command's row in the opcode map (30 R82). -/
def rowMask : Instr → Word
  | .nop => 0xFFFFFFFF
  | .add _ _ => 0xFFFF0000
  | .mul _ _ => 0xFFFF0000
  | .div _ _ => 0xFFFF0000
  | .inv _ => 0xFFFFFF00
  | .eval _ _ => 0xFF00FF00
  | .lagr _ => 0xFF00FFFF

/-- The command the decoder reads from an instruction whose bits are `w`, numbered as
spec/opcode_table.json numbers them. A command is one 32-bit word (30 R80), so bits above `nbits` are 0
and a longer instruction does not exist (log entry 16). -/
def decodeTableWord (nbits w : Nat) : Option Instr :=
  if nbits ≤ 32 then
    match decode (BitVec.ofNat 32 (w % 2 ^ nbits)) with
    | .cmd i => some i
    | .illegal _ => none
  else none

end Sys2Proof
end

