-- ==== Sys2Proof/Machine/Gf.lean ====
section
/-! DEFINITION. The field engine's arithmetic (40): reference multiplication, table construction, and
the table operations the commands use. -/

namespace Sys2Proof.Machine

/-- The LOG and EXP tables (10 R31, R32). -/
structure Tables where
  log : Vector Byte 256
  exp : Vector Byte 255
  deriving DecidableEq, Repr

/-- Field addition (40 R104). -/
def gfAdd (a b : Byte) : Byte := a ^^^ b

/-- The first `i` iterations of the loop of `clmul` (40 R101). -/
def clmulTo (a b : Byte) : Nat → BitVec 15
  | 0 => 0
  | i + 1 =>
    if b.getLsbD i then clmulTo a b i ^^^ (a.setWidth 15 <<< i) else clmulTo a b i

/-- Carry-less product of two bytes (40 R101). -/
def clmul (a b : Byte) : BitVec 15 := clmulTo a b 8

/-- The iterations i = k + 7 down to 8 of the loop of `reduce` (40 R101): k of them are left. -/
def reduceFrom (poly : BitVec 9) : Nat → BitVec 15 → BitVec 15
  | 0, p => p
  | k + 1, p =>
    reduceFrom poly k (if p.getLsbD (k + 8) then p ^^^ (poly.setWidth 15 <<< k) else p)

/-- Reduction modulo POLY, for i = 14 down to 8 (40 R101). -/
def reduce (poly : BitVec 9) (p : BitVec 15) : Byte := (reduceFrom poly 7 p).setWidth 8

/-- Polynomial multiplication modulo POLY (40 R101); it only builds the tables. -/
def gfMulRef (poly : BitVec 9) (a b : Byte) : Byte := reduce poly (clmul a b)

/-- The variables of the loop of `TableBuild` (40 R102). -/
structure BuildState where
  e : Byte
  tables : Tables
  deriving DecidableEq, Repr

/-- The loop of `TableBuild` after its first `i` iterations (40 R102). What the tables hold before
them is unobservable (10 R31, R32); the loop starts from zeros (log entry 8). -/
def buildTo (poly : BitVec 9) (gen : Byte) : (i : Nat) → i ≤ 255 → BuildState
  | 0, _ => { e := 0x01, tables := { log := Vector.replicate 256 0, exp := Vector.replicate 255 0 } }
  | i + 1, h =>
    let st := buildTo poly gen i (Nat.le_of_succ_le h)
    { e := gfMulRef poly st.e gen
      tables :=
        { log := st.tables.log.set st.e.toNat (BitVec.ofNat 8 i) st.e.isLt
          exp := st.tables.exp.set i st.e h } }

/-- `TableBuild(POLY, GEN)` (40 R102), ending with LOG[0] <- 0x00. -/
def tableBuild (poly : BitVec 9) (gen : Byte) : Tables :=
  let st := buildTo poly gen 255 (Nat.le_refl 255)
  { st.tables with log := st.tables.log.set 0 0x00 }

/-- A pair POLY, GEN is valid (00 R6, R7): bit 8 of POLY is set and EXP[0..254] are pairwise
distinct. -/
def validPair (poly : BitVec 9) (gen : Byte) : Bool :=
  poly.getLsbD 8 && decide (tableBuild poly gen).exp.toList.Nodup

/-- LOG[v]. -/
def Tables.logOf (t : Tables) (v : Byte) : Byte := t.log[v.toNat]'v.isLt

/-- EXP[s mod 255]. -/
def Tables.expOf (t : Tables) (s : Nat) : Byte :=
  t.exp[s % 255]'(Nat.mod_lt s (by decide))

/-- Field multiplication by table lookup and a final select (40 R105, R106). -/
def gfMul (t : Tables) (a b : Byte) : Byte :=
  let p := t.expOf ((t.logOf a).toNat + (t.logOf b).toNat)
  if a = 0x00 ∨ b = 0x00 then 0x00 else p

/-- Field division (40 R107): the quotient and the division-by-zero indication. -/
def gfDiv (t : Tables) (a b : Byte) : Byte × Bool :=
  let q := t.expOf ((t.logOf a).toNat + 255 - (t.logOf b).toNat)
  (if a = 0x00 ∨ b = 0x00 then 0x00 else q, decide (b = 0x00))

/-- Field inversion, division of 1 (40 R108). -/
def gfInv (t : Tables) (b : Byte) : Byte × Bool := gfDiv t 0x01 b

end Sys2Proof.Machine
end

