-- ==== Sys2Proof/Machine/GfEval.lean ====
section
/-! DEFINITION. A form of the validity check of 00 R7 that Lean's kernel evaluates quickly, proved equal
to the check itself. Only the proofs that name one instance (POLY, GEN) use it. -/

namespace Sys2Proof.Machine

/-- `f n`, written so that a kernel that evaluates it has `n` as a numeral first. -/
def forceNat {α : Type} (n : Nat) (f : Nat → α) : α :=
  match n with
  | 0 => f 0
  | m + 1 => f (m + 1)

theorem forceNat_eq {α : Type} (n : Nat) (f : Nat → α) : forceNat n f = f n := by
  cases n <;> rfl

/-- GEN^i, by repeated reference multiplication (40 R102). -/
def gfPow (poly : BitVec 9) (gen : Byte) : Nat → Byte
  | 0 => 0x01
  | i + 1 => gfMulRef poly (gfPow poly gen i) gen

/-- The k values e, e·GEN, e·GEN², … -/
def powersFrom (poly : BitVec 9) (gen : Byte) : Nat → Byte → List Byte
  | 0, _ => []
  | k + 1, e => e :: powersFrom poly gen k (gfMulRef poly e gen)

/-- The k values e, e·GEN, e·GEN², … are distinct and none has its bit set in `seen`. -/
def distinctFrom (poly : BitVec 9) (gen : Byte) : Nat → Nat → Nat → Bool
  | 0, _, _ => true
  | k + 1, e, seen =>
    forceNat e fun e => forceNat seen fun seen =>
      !seen.testBit e &&
        distinctFrom poly gen k (gfMulRef poly (BitVec.ofNat 8 e) gen).toNat (seen ||| 1 <<< e)

/-- The loop's e after i iterations is GEN^i (40 R102). -/
theorem buildTo_e (poly : BitVec 9) (gen : Byte) (i : Nat) (h : i ≤ 255) :
    (buildTo poly gen i h).e = gfPow poly gen i := by
  induction i with
  | zero => rfl
  | succ i ih => simp only [buildTo, gfPow, ih]

/-- After i iterations EXP[k] = GEN^k for every k below i (40 R102). -/
theorem buildTo_exp (poly : BitVec 9) (gen : Byte) (i : Nat) (h : i ≤ 255) (k : Nat) (hk : k < i) :
    (buildTo poly gen i h).tables.exp[k]'(by omega) = gfPow poly gen k := by
  induction i with
  | zero => omega
  | succ i ih =>
    simp only [buildTo, Vector.getElem_set, buildTo_e]
    split
    · simp_all
    · exact ih (by omega) (by omega)

/-- EXP[k] = GEN^k (10 R32). -/
theorem tableBuild_exp (poly : BitVec 9) (gen : Byte) (k : Nat) (hk : k < 255) :
    (tableBuild poly gen).exp[k] = gfPow poly gen k := by
  have h := buildTo_exp poly gen 255 (Nat.le_refl 255) k hk
  unfold tableBuild
  generalize buildTo poly gen 255 (Nat.le_refl 255) = st at h ⊢
  exact h

theorem powersFrom_length (poly : BitVec 9) (gen : Byte) (k : Nat) (e : Byte) :
    (powersFrom poly gen k e).length = k := by
  induction k generalizing e with
  | zero => rfl
  | succ k ih => simp [powersFrom, ih]

theorem powersFrom_getElem (poly : BitVec 9) (gen : Byte) (k j i : Nat)
    (hi : i < (powersFrom poly gen k (gfPow poly gen j)).length) :
    (powersFrom poly gen k (gfPow poly gen j))[i] = gfPow poly gen (j + i) := by
  induction k generalizing j i with
  | zero => simp [powersFrom] at hi
  | succ k ih =>
    cases i with
    | zero => simp [powersFrom]
    | succ i =>
      have := ih (j + 1) i (by simpa [powersFrom, powersFrom_length] using hi)
      simp only [powersFrom, List.getElem_cons_succ]
      rw [show j + (i + 1) = j + 1 + i by omega, ← this]
      rfl

theorem tableBuild_exp_toList (poly : BitVec 9) (gen : Byte) :
    (tableBuild poly gen).exp.toList = powersFrom poly gen 255 0x01 := by
  apply List.ext_getElem
  · simp [powersFrom_length]
  · intro i h1 h2
    have h255 : i < 255 := by simpa using h1
    have := powersFrom_getElem poly gen 255 0 i h2
    simp only [Nat.zero_add] at this
    rw [Vector.getElem_toList, tableBuild_exp poly gen i h255]
    exact this.symm

theorem distinctFrom_iff (poly : BitVec 9) (gen : Byte) (k : Nat) (e : Byte) (seen : Nat) :
    distinctFrom poly gen k e.toNat seen = true ↔
      (powersFrom poly gen k e).Nodup ∧ ∀ v ∈ powersFrom poly gen k e, seen.testBit v.toNat = false := by
  induction k generalizing e seen with
  | zero => simp [distinctFrom, powersFrom]
  | succ k ih =>
    simp only [distinctFrom, forceNat_eq, BitVec.ofNat_toNat, BitVec.setWidth_eq, Bool.and_eq_true,
      Bool.not_eq_true', ih, powersFrom, List.nodup_cons, List.mem_cons, forall_eq_or_imp,
      Nat.testBit_or, Bool.or_eq_false_iff, Nat.one_shiftLeft, Nat.testBit_two_pow]
    constructor
    · rintro ⟨h1, h2, h3⟩
      refine ⟨⟨fun hm => ?_, h2⟩, h1, fun v hv => (h3 v hv).1⟩
      simpa using (h3 _ hm).2
    · rintro ⟨⟨h1, h2⟩, h3, h4⟩
      refine ⟨h3, h2, fun v hv => ⟨h4 v hv, ?_⟩⟩
      simp only [decide_eq_false_iff_not]
      intro he
      exact h1 ((BitVec.eq_of_toNat_eq he) ▸ hv)

/-- The validity check, in the form the kernel evaluates. -/
theorem validPair_eq (poly : BitVec 9) (gen : Byte) :
    validPair poly gen = (poly.getLsbD 8 && distinctFrom poly gen 255 1 0) := by
  have h := distinctFrom_iff poly gen 255 0x01 0
  simp only [Nat.zero_testBit, implies_true, and_true] at h
  have h' : distinctFrom poly gen 255 1 0 = decide (powersFrom poly gen 255 0x01).Nodup := by
    rw [Bool.eq_iff_iff, decide_eq_true_iff]
    exact h
  rw [validPair, tableBuild_exp_toList, h']

/-- The default instance (00 R6) is valid (00 R7). -/
theorem validPair_default : validPair 0x11D 0x02 = true := by
  rw [validPair_eq]
  decide +kernel

end Sys2Proof.Machine
end

