-- ==== Sys2Proof/Machine/State.lean ====
section
/-! DEFINITION. The state of the machine (10), the types it is made of, the reasons a step can stop, and
the state right after reset (10 R36, 70 R200). -/

namespace Sys2Proof.Machine

/-- A configuration: POLY, GEN and the proof that the pair is valid. "A model refuses an invalid
configuration: no state of the machine exists for it" (00 R7); so no state can be written with one. -/
structure Params where
  poly : BitVec 9
  gen : Byte
  valid : validPair poly gen = true
  deriving DecidableEq, Repr

/-- The default instance (00 R6). -/
def Params.default : Params := { poly := 0x11D, gen := 0x02, valid := validPair_default }

/-- The LOG and EXP tables of the configuration (40 R102). -/
def Params.tables (p : Params) : Tables := tableBuild p.poly p.gen

/-- ERR (10 R24): three sticky bits. -/
structure Err where
  /-- Bit 0: division by zero. -/
  dz : Bool
  /-- Bit 1: illegal command. -/
  ill : Bool
  /-- Bit 2: overrun. -/
  ovr : Bool
  deriving DecidableEq, Repr

/-- The names of the ERR bits (60 R171-R173). -/
inductive ErrBit where
  | dz
  | ill
  | ovr
  deriving DecidableEq, Repr

/-- What a run is faulted by (00 R13). A record of the run, not a stop: the machine goes on. -/
inductive RunFault where
  /-- An access got a bus error (20 R56). -/
  | busErr
  /-- A command completed with a division by zero (60 R171). -/
  | dz
  /-- A word written to CMD was illegal (60 R172). -/
  | ill
  /-- A write was dropped because the block was busy (60 R173). -/
  | ovr
  /-- An EVAL read a COEF entry that holds no value (10 R29). -/
  | coefNoValue
  /-- A LAGR or a host read touched a POINT entry that holds no value (10 R30). -/
  | pointNoValue
  deriving DecidableEq, Repr

/-- How many bytes the host enables in an access (20 R51). -/
inductive Size where
  | one
  | two
  | four
  deriving DecidableEq, Repr

/-- One access of the host (20 R51). -/
inductive BusOp where
  | read (addr : Addr) (size : Size)
  | write (addr : Addr) (size : Size) (wdata : Word)
  deriving DecidableEq, Repr

/-- One line of the host's program (30 R95): an access, or WAIT, which reads STATUS until BUSY = 0. -/
inductive HostOp where
  | access (a : BusOp)
  | wait
  deriving DecidableEq, Repr

/-- The response to an access (20 R51, R56). -/
inductive Reply where
  /-- A served read and its data. -/
  | data (w : Word)
  /-- A served write. -/
  | ok
  /-- BUSERR on a read, with the read data of 20 R56. -/
  | readBusErr (w : Word)
  /-- BUSERR on a write. -/
  | writeBusErr
  deriving DecidableEq, Repr

/-- A point (x, y) of the point buffer (10 R30). -/
structure Point where
  x : Byte
  y : Byte
  deriving DecidableEq, Repr

/-- The agents that take steps (00 R12), and nobody, when a run has ended (00 R14). -/
inductive Agent where
  | host
  | engine
  | init
  | nobody
  deriving DecidableEq, Repr

/-- What the buffers hold, byte by byte at the bus's byte addresses: COEF[k] at 0x0400 + 4k, the y of
POINT[j] at 0x0800 + 4j and its x at 0x0801 + 4j (20 R53, R54, R60, R61). Addresses rise strictly; an
address that is not listed holds no value (10 R29, R30; log entry 10). -/
abbrev Memory := List Host.Cell

/-- The state of the machine: the architectural state of 10 R20, then the model's own record of the
run it is in (the host's remaining accesses, their interleaving, the replies, 00 R13's faults). STATUS
and CMD have no storage (10 R23, R25) and ID is hard-wired (10 R27). -/
structure State where
  /-- POLY and GEN, read through PARAM (10 R28). -/
  params : Params
  /-- STATUS.READY (10 R23). -/
  ready : Bool
  /-- ERR (10 R24). -/
  err : Err
  /-- RES (10 R26). -/
  res : Byte
  /-- COEF and POINT (10 R29, R30). -/
  mem : Memory
  /-- LOG and EXP (10 R31, R32). -/
  tables : Tables
  /-- PEND (10 R34). -/
  pend : Bool
  /-- PCMD (10 R34). -/
  pcmd : Word
  /-- The model's own: how many more host accesses are served before the busy unit takes its step;
  while READY = 0 this stands for the progress counter of 10 R33 (log entry 2). -/
  slack : Nat
  /-- The model's own: the host's remaining program (00 R12; log entry 4). -/
  host : List HostOp
  /-- The model's own: the responses the host has received, oldest first. -/
  replies : List Reply
  /-- The model's own: what the run is faulted by, oldest first (00 R13; log entry 5). -/
  faults : List RunFault
  /-- The model's own: events taken, the argument the interleaving is drawn with (log entry 2). -/
  tick : Nat
  /-- The model's own: which launch this is, the argument the unnamed contents of unwritten entries are
  drawn with (log entry 1). -/
  launch : Nat
  deriving DecidableEq, Repr

/-- Why the machine stops. Nothing the spec describes does (60 R170; 93: "the block never stops serving
the bus"). -/
inductive Fault where
  /-- Raised by `step` alone: PEND = 1 and PCMD decodes to no command. No run reaches such a state (30
  R90 accepts legal words only); the spec gives it no meaning, and stopping is safe (log entry 12). -/
  | illegalPending
  deriving DecidableEq, Repr

/-- Why an instruction has no meaning. -/
inductive Refusal where
  /-- Raised by `exec` alone, for an instruction without a meaning yet; safe. No arm of it is left. -/
  | notModelled (mnemonic : String)
  deriving DecidableEq, Repr

/-- The state right after reset of the block configured with `p` (10 R36, 70 R200): READY = 0, ERR = 0,
RES = 0x00, PEND = 0, no COEF or POINT entry holds a value. The values of LOG, EXP (log entry 8), PCMD
(log entry 9) and the model's own fields (log entry 18) are DESIGN CHOICEs. -/
def State.resetWith (p : Params) : State where
  params := p
  ready := false
  err := { dz := false, ill := false, ovr := false }
  res := 0x00
  mem := []
  tables := { log := Vector.replicate 256 0x00, exp := Vector.replicate 255 0x00 }
  pend := false
  pcmd := 0x00000000
  slack := 0
  host := []
  replies := []
  faults := []
  tick := 0
  launch := 0

/-- The machine right after reset, default instance (00 R6; log entry 11). -/
def State.reset : State := State.resetWith Params.default

end Sys2Proof.Machine
end

