-- ==== Sys2Proof/Machine/Flags.lean ====
section
/-! DEFINITION. The flags: ERR and STATUS (10 R23, R24). No command reads them (10 R35). -/

namespace Sys2Proof.Machine

/-- The named bit of ERR. -/
def Err.get (e : Err) : ErrBit → Bool
  | .dz => e.dz
  | .ill => e.ill
  | .ovr => e.ovr

/-- ERR with the named bit set (00 R11 `raise`). -/
def Err.set (e : Err) : ErrBit → Err
  | .dz => { e with dz := true }
  | .ill => { e with ill := true }
  | .ovr => { e with ovr := true }

/-- A write to ERR: `ERR <- ERR and not (wdata[2:0])` (10 R24; the same cycle of 60 R177 is log entry
15). -/
def Err.clear (e : Err) (wdata : Word) : Err where
  dz := e.dz && !wdata.getLsbD 0
  ill := e.ill && !wdata.getLsbD 1
  ovr := e.ovr && !wdata.getLsbD 2

/-- ERR as read: bits 31:3 read as 0 (10 R24, 20 R59). -/
def Err.toWord (e : Err) : Word :=
  (BitVec.ofBool e.ovr ++ BitVec.ofBool e.ill ++ BitVec.ofBool e.dz : BitVec 3).setWidth 32

/-- STATUS.BUSY = (READY == 0) or (PEND == 1) (10 R23). -/
def State.busy (s : State) : Bool := !s.ready || s.pend

/-- STATUS as read (10 R23). -/
def State.statusWord (s : State) : Word :=
  (BitVec.ofBool s.busy ++ BitVec.ofBool s.ready : BitVec 2).setWidth 32

/-- PARAM as read (10 R28). -/
def Params.toWord (p : Params) : Word :=
  (0#8 ++ p.gen ++ 0#7 ++ p.poly : BitVec 32)

/-- The run fault that raising an ERR bit is (00 R13). -/
def ErrBit.runFault : ErrBit → RunFault
  | .dz => .dz
  | .ill => .ill
  | .ovr => .ovr

end Sys2Proof.Machine
end

