-- ==== Sys2Proof/Machine/Ops.lean ====
section
/-! DEFINITION. The named operations over memory and registers: the buffers' bytes, raising an error,
recording a fault of the run, replying to the host, completing a command. -/

namespace Sys2Proof.Machine

/-- The byte at address `a`; `none` when it holds no value. -/
def Memory.read : Memory → Nat → Option Byte
  | [], _ => none
  | (b, v) :: rest, a => if a = b then some v else Memory.read rest a

/-- Memory with the byte at address `a` set to `v`. -/
def Memory.write : Memory → Nat → Byte → Memory
  | [], a, v => [(a, v)]
  | (b, w) :: rest, a, v =>
    if a < b then (a, v) :: (b, w) :: rest
    else if a = b then (a, v) :: rest
    else (b, w) :: Memory.write rest a v

/-- The byte addresses that hold buffer contents: COEF's byte lane 0, POINT's lanes 0 and 1 (20 R54,
R59-R61). -/
def storageAddr (a : Nat) : Bool :=
  decide ((0x0400 ≤ a ∧ a < 0x0800 ∧ a % 4 = 0) ∨ (0x0800 ≤ a ∧ a < 0x0C00 ∧ a % 4 < 2))

/-- Addresses rise strictly. -/
def Memory.rising (m : Memory) : Bool := decide (m.Pairwise fun c d => c.1 < d.1)

/-- The canonical form: addresses rise strictly and each holds buffer contents. -/
def Memory.wf (m : Memory) : Bool := Memory.rising m && m.all fun c => storageAddr c.1

/-- The byte address of COEF[k] (20 R54). -/
def coefAddr (k : Nat) : Nat := 0x0400 + 4 * k

/-- The byte address of the y of POINT[j], byte lane 0 of its word; x is in the next lane (20 R54,
R61). -/
def pointAddr (j : Nat) : Nat := 0x0800 + 4 * j

/-- COEF[k] <- v (20 R60). -/
def State.writeCoef (s : State) (k : Nat) (v : Byte) : State :=
  { s with mem := Memory.write s.mem (coefAddr k) v }

/-- POINT[j] <- p, both halves in one step (20 R61). -/
def State.writePoint (s : State) (j : Nat) (p : Point) : State :=
  { s with mem := Memory.write (Memory.write s.mem (pointAddr j) p.y) (pointAddr j + 1) p.x }

/-- The run is faulted by `f` (00 R13). -/
def State.record (s : State) (f : RunFault) : State :=
  { s with faults := s.faults ++ [f] }

/-- `raise e` (00 R11, 60 R170): the sticky bit is set and the run is faulted by it (00 R13); no state is
saved and no control is transferred. This is the machine's one way to report an error. -/
def State.raise (s : State) (e : ErrBit) : State :=
  { s with err := s.err.set e, faults := s.faults ++ [e.runFault] }

/-- The host receives a response. -/
def State.reply (s : State) (r : Reply) : State :=
  { s with replies := s.replies ++ [r] }

/-- One event has been taken. -/
def State.advance (s : State) : State :=
  { s with tick := s.tick + 1 }

/-- What `Exec` returns (30 R91): the result, the division-by-zero indication, whether RES is written. -/
structure Result where
  r : Byte
  dz : Bool
  writesRes : Bool
  deriving DecidableEq, Repr

/-- The completion step (30 R91) of a command whose `Exec` returned `out` and that touched buffer
entries as `touched` says (00 R13). -/
def State.complete (s : State) (out : Result) (touched : List RunFault) : State :=
  { s with
    res := bif out.writesRes then out.r else s.res
    err := bif out.dz then s.err.set .dz else s.err
    faults := s.faults ++ touched ++ (bif out.dz then [RunFault.dz] else [])
    pend := false
    tick := s.tick + 1 }

end Sys2Proof.Machine
end

