-- ==== Sys2Proof/Machine/Operands.lean ====
section
/-! DEFINITION. The operands a command takes from the buffers (30 R81): COEF[0..n-1] for EVAL,
POINT[0..n-1] for LAGR. An entry that holds no value is read as a free value (log entry 1). -/

namespace Sys2Proof.Machine

/-- COEF[k]; `none` when the entry holds no value (10 R29). -/
def State.coefEntry (s : State) (k : Nat) : Option Byte := Memory.read s.mem (coefAddr k)

/-- POINT[j]; `none` when the entry holds no value (10 R30). -/
def State.pointEntry (s : State) (j : Nat) : Option Point :=
  match Memory.read s.mem (pointAddr j), Memory.read s.mem (pointAddr j + 1) with
  | some y, some x => some { x := x, y := y }
  | _, _ => none

/-- COEF[k] as the engine reads it. -/
def State.coefOperand (s : State) (k : Nat) : Byte :=
  (s.coefEntry k).getD (Config.freeCoef s.launch k)

/-- POINT[j] as it is read. -/
def State.pointOperand (s : State) (j : Nat) : Point :=
  (s.pointEntry j).getD { x := Config.freePointX s.launch j, y := Config.freePointY s.launch j }

/-- COEF[0..n-1] all hold a value. -/
def State.coefsHeld (s : State) (n : Nat) : Bool :=
  (List.range n).all fun k => (s.coefEntry k).isSome

/-- POINT[0..n-1] all hold a value. -/
def State.pointsHeld (s : State) (n : Nat) : Bool :=
  (List.range n).all fun j => (s.pointEntry j).isSome

/-- What an EVAL with count n is faulted by for the entries it reads (41 R131; log entry 20). -/
def State.coefFaults (s : State) (n : Nat) : List RunFault :=
  if s.coefsHeld n then [] else [.coefNoValue]

/-- What a LAGR with count n is faulted by for the entries it reads (42 R151; log entry 20). -/
def State.pointFaults (s : State) (n : Nat) : List RunFault :=
  if s.pointsHeld n then [] else [.pointNoValue]

end Sys2Proof.Machine
end

