-- ==== Sys2Proof/Machine/Bus.lean ====
section
/-! DEFINITION. The host port (20): the address map, what a read returns, what a write does, and the
acceptance of a command (30 R90). -/

namespace Sys2Proof.Machine

/-- The rows of the address map (20 R54). -/
inductive Loc where
  | id
  | status
  | err
  | cmd
  | res
  | param
  | coef (k : Byte)
  | point (j : Byte)
  | log (v : Byte)
  | exp (i : Byte)
  | reserved
  deriving DecidableEq, Repr

/-- The row of the address map that the word at `addr` belongs to (20 R54, R55). -/
def locate (addr : Addr) : Loc :=
  let a := addr.toNat
  let i := addr.extractLsb' 2 8
  if a < 0x0400 then
    if a = 0x0000 then .id
    else if a = 0x0004 then .status
    else if a = 0x0008 then .err
    else if a = 0x000C then .cmd
    else if a = 0x0010 then .res
    else if a = 0x0014 then .param
    else .reserved
  else if a < 0x0800 then .coef i
  else if a < 0x0C00 then .point i
  else if a < 0x1000 then .reserved
  else if a < 0x1400 then .log i
  else if a < 0x1800 then .exp i
  else .reserved

/-- The place a served access reaches; `none` is BUSERR: a misaligned or narrow access (20 R52) or a
reserved address (20 R55). -/
def target (addr : Addr) (size : Size) : Option Loc :=
  if size = .four ∧ addr.extractLsb' 0 2 = 0 then
    match locate addr with
    | .reserved => none
    | l => some l
  else none

/-- The word a POINT entry reads as: {16'b0, x, y} (20 R61). -/
def Point.toWord (p : Point) : Word := (0#16 ++ p.x ++ p.y : BitVec 32)

/-- The point a word written to a POINT entry sets: y in bits 7:0, x in bits 15:8 (20 R61). -/
def Point.ofWord (w : Word) : Point := { x := w.extractLsb' 8 8, y := w.extractLsb' 0 8 }

/-- What a served read returns (20 R54, R57-R64). -/
def State.readWord (s : State) : Loc → Word
  | .id => Config.idWord
  | .status => s.statusWord
  | .err => s.err.toWord
  | .cmd => 0x00000000
  | .res => s.res.setWidth 32
  | .param => s.params.toWord
  | .coef _ => 0x00000000
  | .point j => (s.pointOperand j.toNat).toWord
  | .log v => if s.ready then (s.tables.logOf v).setWidth 32 else 0x00000000
  | .exp i =>
    if s.ready && i != 0xFF then (s.tables.expOf i.toNat).setWidth 32 else 0x00000000
  | .reserved => 0x00000000

/-- What a served read faults the run by (00 R13, 20 R61): a POINT entry that holds no value. -/
def State.readFaults (s : State) : Loc → List RunFault
  | .point j => if (s.pointEntry j.toNat).isSome then [] else [.pointNoValue]
  | _ => []

/-- A served read: the data goes to the host, the block does not change (20 R57). -/
def State.serveRead (s : State) (l : Loc) : State :=
  { s with
    replies := s.replies ++ [Reply.data (s.readWord l)]
    faults := s.faults ++ s.readFaults l }

/-- A command word has become pending (30 R90): PCMD <- w, PEND <- 1. When the engine will take its step
is open (log entries 2 and 3). -/
def State.setPending (s : State) (w : Word) : State :=
  { s with
    pcmd := w
    pend := true
    slack := Config.freeSlack (Config.latency (opField w) (nField w)) s.tick }

/-- A served write to CMD (30 R90, 60 R176). -/
def State.accept (s : State) (w : Word) : State :=
  if s.busy then s.raise .ovr
  else if legalWord w then s.setPending w
  else s.raise .ill

/-- A served write (20 R58-R61, R65; 10 R24). -/
def State.serveWrite (s : State) (l : Loc) (w : Word) : State :=
  match l with
  | .err => { s with err := s.err.clear w }
  | .cmd => s.accept w
  | .coef k => if s.busy then s.raise .ovr else s.writeCoef k.toNat (w.extractLsb' 0 8)
  | .point j => if s.busy then s.raise .ovr else s.writePoint j.toNat (Point.ofWord w)
  | .id => s
  | .status => s
  | .res => s
  | .param => s
  | .log _ => s
  | .exp _ => s
  | .reserved => s

/-- One access, with the checks in the order of 60 R176. BUSERR: read data 0, no state of the block
changes, the run is faulted (20 R56, 00 R13). -/
def State.serve (s : State) : BusOp → State
  | .read addr size =>
    match target addr size with
    | none => (s.record .busErr).reply (.readBusErr 0x00000000)
    | some l => s.serveRead l
  | .write addr size w =>
    match target addr size with
    | none => (s.record .busErr).reply .writeBusErr
    | some l => (s.serveWrite l w).reply .ok

end Sys2Proof.Machine
end

