-- ==== Sys2Proof/Machine/Agents.lean ====
section
/-! DEFINITION. The agents (00 R12): whose step is next, the host's step, the init sequencer's step, the
command the engine's step runs; launching a run. -/

namespace Sys2Proof.Machine

/-- The agent whose step is next. The engine or the init sequencer has a step while the block is busy
(30 R91, 70 R201); it takes it after `slack` more host accesses, or when the host has none left (log
entry 2). A run has ended when the host has no access left and BUSY = 0 (00 R14). -/
def nextAgent (s : State) : Agent :=
  if s.busy && (s.host.isEmpty || s.slack == 0) then (if s.ready then .engine else .init)
  else if s.host.isEmpty then .nobody
  else .host

/-- The host's step: its next access, in program order (00 R12). WAIT reads STATUS and stays while bit 1
of the value read, BUSY, is 1 (30 R95). -/
def hostStep (s : State) : State :=
  match s.host with
  | [] => s
  | .access a :: rest =>
    (State.serve { s with host := rest, slack := s.slack - 1 } a).advance
  | .wait :: rest =>
    (State.serve
      { s with
        host := if s.statusWord.getLsbD 1 then .wait :: rest else rest
        slack := s.slack - 1 }
      (.read 0x0004 .four)).advance

/-- The init sequencer's one step: both tables and READY (70 R202, 10 R33). -/
def initStep (s : State) : State :=
  { s with
    tables := s.params.tables
    ready := true
    tick := s.tick + 1 }

/-- The command the engine's step completes: decode(PCMD) (30 R91). -/
def fetchCommand (s : State) : Decoded := decode s.pcmd

/-- A run's first state: right after reset, with the host's program and any point for the init step (70
R200, 00 R12). -/
def State.launchWith (p : Params) (program : List HostOp) (slack : Nat) : State :=
  { State.resetWith p with host := program, slack := slack }

/-- DESIGN CHOICE, log entry 14. Reset asserted in mid-run: whatever the block was doing is abandoned and every piece of state takes
its value after reset; a new launch (70 R200). The counters of the free values go on, so what is open is
open again. -/
def State.relaunch (s : State) (program : List HostOp) : State :=
  { State.launchWith s.params program (Config.freeSlack Config.initLatency s.tick) with
    tick := s.tick + 1
    launch := s.launch + 1 }

/-- Initialisation over and the word `w` pending, to be completed by the very next step (30 R90, R91; log
entry 13). -/
def State.placePending (s : State) (w : Word) : State :=
  { s with
    tables := s.params.tables
    ready := true
    pcmd := w
    pend := true
    slack := 0 }

end Sys2Proof.Machine
end

