-- ==== Sys2Proof/Machine/Field.lean ====
section
/-! DEFINITION. The field commands NOP, ADD, MUL, DIV, INV (40 R111-R115): what each does at its
completion step. -/

namespace Sys2Proof.Machine

/-- NOP (40 R111). -/
def execNop (s : State) : Host.Outcome State Fault Refusal :=
  .next (s.complete { r := s.res, dz := false, writesRes := false } [])

/-- ADD (40 R112). -/
def execAdd (a b : Byte) (s : State) : Host.Outcome State Fault Refusal :=
  .next (s.complete { r := gfAdd a b, dz := false, writesRes := true } [])

/-- MUL (40 R113). -/
def execMul (a b : Byte) (s : State) : Host.Outcome State Fault Refusal :=
  .next (s.complete { r := gfMul s.tables a b, dz := false, writesRes := true } [])

/-- DIV (40 R114). -/
def execDiv (a b : Byte) (s : State) : Host.Outcome State Fault Refusal :=
  let (q, d) := gfDiv s.tables a b
  .next (s.complete { r := q, dz := d, writesRes := true } [])

/-- INV (40 R115). -/
def execInv (b : Byte) (s : State) : Host.Outcome State Fault Refusal :=
  let (q, d) := gfInv s.tables b
  .next (s.complete { r := q, dz := d, writesRes := true } [])

end Sys2Proof.Machine
end

