-- ==== Sys2Proof/Machine/Lagrange.lean ====
section
/-! DEFINITION. The Lagrange interpolation engine: LAGR (42 R151). -/

namespace Sys2Proof.Machine

/-- The inner loop of 42 R151 for point j after its first k iterations: the basis weight w and whether
a denominator was 0. -/
def lagrangeWeightTo (t : Tables) (p : Nat → Point) (j : Nat) : Nat → Byte × Bool
  | 0 => (0x01, false)
  | k + 1 =>
    let (w, d) := lagrangeWeightTo t p j k
    if k = j then (w, d)
    else
      let (q, dq) := gfDiv t (p k).x (gfAdd (p k).x (p j).x)
      (gfMul t w q, d || dq)

/-- The outer loop of 42 R151 over n points after its first j iterations: acc and dzany. -/
def lagrangeTo (t : Tables) (p : Nat → Point) (n : Nat) : Nat → Byte × Bool
  | 0 => (0x00, false)
  | j + 1 =>
    let (acc, d) := lagrangeTo t p n j
    let (w, dw) := lagrangeWeightTo t p j n
    (gfAdd acc (gfMul t (p j).y w), d || dw)

/-- The interpolation of the points p 0, ..., p (n-1) at x = 0, and whether a denominator was 0 (42
R151). -/
def lagrange (t : Tables) (p : Nat → Point) (n : Nat) : Byte × Bool := lagrangeTo t p n n

/-- LAGR (42 R151). -/
def execLagr (n : Byte) (s : State) : Host.Outcome State Fault Refusal :=
  let (acc, dzany) := lagrange s.tables s.pointOperand n.toNat
  .next (s.complete { r := acc, dz := dzany, writesRes := true } (s.pointFaults n.toNat))

end Sys2Proof.Machine
end

