-- ==== Sys2Proof/Machine/Poly.lean ====
section
/-! DEFINITION. The Shamir polynomial evaluator: EVAL (41 R131). -/

namespace Sys2Proof.Machine

/-- The loop `for k = n-1 downto 0` with n iterations left and the value r so far (41 R131). -/
def hornerFrom (t : Tables) (c : Nat → Byte) (x : Byte) : Nat → Byte → Byte
  | 0, r => r
  | k + 1, r => hornerFrom t c x k (gfAdd (gfMul t r x) (c k))

/-- The polynomial with coefficients c 0, ..., c (n-1) at x, by Horner's method (41 R131). -/
def horner (t : Tables) (c : Nat → Byte) (x : Byte) (n : Nat) : Byte :=
  hornerFrom t c x n 0x00

/-- EVAL (41 R131). -/
def execEval (n x : Byte) (s : State) : Host.Outcome State Fault Refusal :=
  let r := horner s.tables s.coefOperand x n.toNat
  .next (s.complete { r := r, dz := false, writesRes := true } (s.coefFaults n.toNat))

end Sys2Proof.Machine
end

