-- ==== Sys2Proof/Machine/Dispatch.lean ====
section
/-! DEFINITION. The arms of `Exec` (30 R91): one command's completion step, one arm per command. -/

namespace Sys2Proof.Machine

def exec (i : Instr) (s : State) : Host.Outcome State Fault Refusal :=
  match i with
  | .nop => Sys2Proof.Machine.execNop s
  | .add a b => Sys2Proof.Machine.execAdd a b s
  | .mul a b => Sys2Proof.Machine.execMul a b s
  | .div a b => Sys2Proof.Machine.execDiv a b s
  | .inv b => Sys2Proof.Machine.execInv b s
  | .eval n x => Sys2Proof.Machine.execEval n x s
  | .lagr n => Sys2Proof.Machine.execLagr n s

end Sys2Proof.Machine
end

