-- ==== Sys2Proof/Machine/Step.lean ====
section
/-! DEFINITION. One event of the machine's total order (20 R66): a host access, a completion, the init
step, or nothing when the run has ended. -/

namespace Sys2Proof.Machine

/-- One step (00 R12); cycles are not modelled (log entry 21). A block that has nothing to do waits for the host (70 R203; log entry 6). -/
def step (s : State) : Host.Outcome State Fault Refusal :=
  match nextAgent s with
  | .host => .next (hostStep s)
  | .init => .next (initStep s)
  | .engine =>
    match fetchCommand s with
    | .cmd i => exec i s
    | .illegal _ => .fault .illegalPending
  | .nobody => .next s

/-- `s` with the command word `w` accepted and about to complete (log entry 13). -/
def State.withFetchWord (s : State) (nbits w : Nat) : State :=
  s.placePending (BitVec.ofNat 32 (w % 2 ^ nbits))

end Sys2Proof.Machine
end

