-- ==== Sys2Proof/Asm.lean ====
section
/-! DEFINITION. Command assembly lines as syntax (30 R93, R94): operands are numbers as written,
not yet checked to fit their 8-bit fields. -/

namespace Sys2Proof

/-- One command line: the seven mnemonics of 30 R93 and the four pseudo-commands of 30 R94. -/
inductive AsmLine where
  | nop
  | add (a b : Nat)
  | mul (a b : Nat)
  | div (a b : Nat)
  | inv (b : Nat)
  | eval (n x : Nat)
  | lagr (n : Nat)
  /-- `sub a, b` is `add a, b`: characteristic 2. -/
  | sub (a b : Nat)
  /-- `mov b` is `add 0, b`. -/
  | mov (b : Nat)
  /-- `clr` is `add 0, 0`. -/
  | clr
  /-- `sqr a` is `mul a, a`. -/
  | sqr (a : Nat)
  deriving DecidableEq, Repr

/-- The operands of a line, in the order written. -/
def AsmLine.operands : AsmLine → List Nat
  | .nop => []
  | .add a b => [a, b]
  | .mul a b => [a, b]
  | .div a b => [a, b]
  | .inv b => [b]
  | .eval n x => [n, x]
  | .lagr n => [n]
  | .sub a b => [a, b]
  | .mov b => [b]
  | .clr => []
  | .sqr a => [a]

end Sys2Proof
end

