-- ==== Sys2Proof/WellFormed.lean ====
section
/-! DEFINITION. Well-formedness of command assembly lines (30 R93). A command itself (`Instr`) carries
8-bit fields, so every command is well-formed by its type; a configuration carries the check of 00 R7
(`Machine.Params`). -/

namespace Sys2Proof

/-- Every operand fits in 8 bits: "an out-of-range operand is an assembly error, never truncated"
(30 R93). -/
def AsmLine.wellFormed (l : AsmLine) : Bool := l.operands.all fun v => decide (v < 256)

end Sys2Proof
end

