-- ==== Sys2Proof/Machine/Assembler.lean ====
section
/-! DEFINITION. The assembler: command lines to commands (30 R93, R94), their text, and the lines of a
host script (30 R95). -/

namespace Sys2Proof.Machine

/-- The command a line encodes; `none` is an assembly error (30 R93). Pseudo-commands expand as 30 R94
says. -/
def assemble (l : AsmLine) : Option Instr :=
  if l.wellFormed then
    match l with
    | .nop => some .nop
    | .add a b => some (.add (BitVec.ofNat 8 a) (BitVec.ofNat 8 b))
    | .mul a b => some (.mul (BitVec.ofNat 8 a) (BitVec.ofNat 8 b))
    | .div a b => some (.div (BitVec.ofNat 8 a) (BitVec.ofNat 8 b))
    | .inv b => some (.inv (BitVec.ofNat 8 b))
    | .eval n x => some (.eval (BitVec.ofNat 8 n) (BitVec.ofNat 8 x))
    | .lagr n => some (.lagr (BitVec.ofNat 8 n))
    | .sub a b => some (.add (BitVec.ofNat 8 a) (BitVec.ofNat 8 b))
    | .mov b => some (.add 0x00 (BitVec.ofNat 8 b))
    | .clr => some (.add 0x00 0x00)
    | .sqr a => some (.mul (BitVec.ofNat 8 a) (BitVec.ofNat 8 a))
  else none

/-- The value of a digit in the given base. -/
def digitValue (base : Nat) (c : Char) : Option Nat :=
  let n := c.toNat
  let v :=
    if 48 ≤ n ∧ n ≤ 57 then n - 48
    else if 65 ≤ n ∧ n ≤ 70 then n - 55
    else if 97 ≤ n ∧ n ≤ 102 then n - 87
    else 16
  if v < base then some v else none

/-- The digits read so far are worth `acc`. -/
def digitsFrom (base : Nat) : List Char → Nat → Option Nat
  | [], acc => some acc
  | c :: cs, acc =>
    match digitValue base c with
    | some v => digitsFrom base cs (acc * base + v)
    | none => none

/-- A number in decimal or `0x` hexadecimal (30 R93). -/
def parseNumber : List Char → Option Nat
  | [] => none
  | ['0', 'x'] => none
  | '0' :: 'x' :: ds => digitsFrom 16 ds 0
  | ds => digitsFrom 10 ds 0

/-- The text without the spaces around it. -/
def trimSpaces (cs : List Char) : List Char :=
  ((cs.dropWhile (· == ' ')).reverse.dropWhile (· == ' ')).reverse

/-- The pieces between commas. -/
def splitCommas : List Char → List (List Char)
  | [] => [[]]
  | c :: cs =>
    match c == ',', splitCommas cs with
    | true, ps => [] :: ps
    | false, p :: ps => (c :: p) :: ps
    | false, [] => [[c]]

/-- All the values, if all are there. -/
def allSome : List (Option Nat) → Option (List Nat)
  | [] => some []
  | v :: vs =>
    match v, allSome vs with
    | some v, some vs => some (v :: vs)
    | _, _ => none

/-- Operands separated by commas (30 R93). -/
def parseOperands (cs : List Char) : Option (List Nat) :=
  if cs.isEmpty then some []
  else allSome ((splitCommas cs).map fun p => parseNumber (trimSpaces p))

/-- The word is the mnemonic, in lower or in upper case (30 R93). -/
def isMnemonic (w m : List Char) : Bool := w == m || w == m.map Char.toUpper

/-- One command line of text (30 R93, R94). Spaces may stand around operands (log entry 19). -/
def parseLine (cs : List Char) : Option AsmLine :=
  let cs := trimSpaces cs
  let w := cs.takeWhile (· != ' ')
  match parseOperands (trimSpaces (cs.dropWhile (· != ' '))) with
  | some [] =>
    if isMnemonic w ['n', 'o', 'p'] then some .nop
    else if isMnemonic w ['c', 'l', 'r'] then some .clr
    else none
  | some [v] =>
    if isMnemonic w ['i', 'n', 'v'] then some (.inv v)
    else if isMnemonic w ['l', 'a', 'g', 'r'] then some (.lagr v)
    else if isMnemonic w ['m', 'o', 'v'] then some (.mov v)
    else if isMnemonic w ['s', 'q', 'r'] then some (.sqr v)
    else none
  | some [u, v] =>
    if isMnemonic w ['a', 'd', 'd'] then some (.add u v)
    else if isMnemonic w ['m', 'u', 'l'] then some (.mul u v)
    else if isMnemonic w ['d', 'i', 'v'] then some (.div u v)
    else if isMnemonic w ['e', 'v', 'a', 'l'] then some (.eval u v)
    else if isMnemonic w ['s', 'u', 'b'] then some (.sub u v)
    else none
  | _ => none

/-- The script line `R addr` (30 R95). -/
def scriptR (addr : Addr) : HostOp := .access (.read addr .four)

/-- The script line `W addr, value` (30 R95). -/
def scriptW (addr : Addr) (value : Word) : HostOp := .access (.write addr .four value)

/-- The script line `C <command>` (30 R95): a write of its encoding to CMD. -/
def scriptC (i : Instr) : HostOp := scriptW 0x000C (encode i)

end Sys2Proof.Machine
end

