-- ==== Sys2Proof/Safety.lean ====
section
/-! DEFINITION. What counts as a safe run, and the invariant of the machine. -/

namespace Sys2Proof.Machine

/-- No fault has been recorded for the run (00 R13). -/
def State.faultFree (s : State) : Bool := s.faults.isEmpty

/-- The run has ended: the host has no access left and BUSY = 0 (00 R14). -/
def State.ended (s : State) : Bool := s.host.isEmpty && !s.busy

/-- The invariant that every step keeps. -/
structure Inv (s : State) : Prop where
  /-- The buffers' bytes are in canonical form. -/
  memWf : Memory.wf s.mem = true
  /-- A POINT entry's two halves are written together (10 R30). -/
  pointsPaired : ∀ j, j < 256 →
    (Memory.read s.mem (pointAddr j)).isSome = (Memory.read s.mem (pointAddr j + 1)).isSome
  /-- Once READY = 1 the tables are those of 40 R102 (70 R202). -/
  tablesBuilt : s.ready = true → s.tables = s.params.tables
  /-- A command is pending only once the tables are built (30 R92). -/
  pendReady : s.pend = true → s.ready = true
  /-- A pending word is a legal command (30 R90). -/
  pendLegal : s.pend = true → legalWord s.pcmd = true

/-- The state of the block configured with `p` immediately after reset: the values of 10 R36 (what it
leaves unspecified is left out), and no fault recorded for the run that begins. -/
structure AfterReset (p : Params) (s : State) : Prop where
  params : s.params = p
  ready : s.ready = false
  busy : s.busy = true
  err : s.err = { dz := false, ill := false, ovr := false }
  res : s.res = 0x00
  pend : s.pend = false
  coefs : ∀ k, s.coefEntry k = none
  points : ∀ j, s.pointEntry j = none
  faults : s.faults = []

/-- The two states agree in everything of 10 R20: they may differ in the record of the run only. -/
structure SameBlock (s t : State) : Prop where
  params : s.params = t.params
  ready : s.ready = t.ready
  err : s.err = t.err
  res : s.res = t.res
  mem : s.mem = t.mem
  tables : s.tables = t.tables
  pend : s.pend = t.pend
  pcmd : s.pcmd = t.pcmd

/-- The two states agree in everything but what the COEF entries hold. -/
structure SameButCoef (s t : State) : Prop where
  rest : t = { s with mem := t.mem }
  points : ∀ j, j < 256 →
    Memory.read t.mem (pointAddr j) = Memory.read s.mem (pointAddr j) ∧
    Memory.read t.mem (pointAddr j + 1) = Memory.read s.mem (pointAddr j + 1)

/-- Σ over k = 0..n-1, by ⊕ starting from 0 (00 R10). -/
def xorSum (f : Nat → Byte) : Nat → Byte
  | 0 => 0x00
  | k + 1 => gfAdd (xorSum f k) (f k)

/-- x^k by ⊗: x^0 = 1 and x^(k+1) = x^k ⊗ x (41 R132). -/
def tablePow (t : Tables) (x : Byte) : Nat → Byte
  | 0 => 0x01
  | k + 1 => gfMul t (tablePow t x k) x

/-- The x of point l occurs once among the n points (42 R156). -/
abbrev OccursOnce (p : Nat → Point) (n l : Nat) : Prop :=
  ∀ k, k < n → k ≠ l → (p k).x ≠ (p l).x

/-- The x values of the n points are pairwise distinct (42 R155). -/
def DistinctX (p : Nat → Point) (n : Nat) : Prop := ∀ l, l < n → OccursOnce p n l

/-- A command word without its a and b fields, and one word for all illegal ones: what the command's
latency may depend on (70 R210). -/
def timingWord (w : Word) : Word :=
  if legalWord w then packFields (opField w) (nField w) 0x00 0x00 else 0xFFFFFFFF

/-- A host line without the data it writes, but for what timing may depend on of a command word. -/
def timingOp : HostOp → HostOp
  | .access (.write addr size w) =>
    .access (.write addr size (if target addr size = some .cmd then timingWord w else 0))
  | op => op

/-- What the order of events may depend on (70 R210, 40 R105): no operand, buffer, table, result or
flag. -/
structure TimingView where
  ready : Bool
  pend : Bool
  pending : Word
  slack : Nat
  tick : Nat
  host : List HostOp
  deriving DecidableEq, Repr

/-- The timing view of a state. -/
def State.timing (s : State) : TimingView where
  ready := s.ready
  pend := s.pend
  pending := timingWord s.pcmd
  slack := s.slack
  tick := s.tick
  host := s.host.map timingOp

end Sys2Proof.Machine
end

