-- ==== Sys2Proof/Certificates/Slice0/Obligations.lean ====
section
/-! DEFINITION. What is claimed of the machine, rule by rule of the spec. -/

open Sys2Proof Sys2Proof.Machine

/-! ## Command words (30) -/

/-- The words the spec writes out for each command (40 R112-R115, 41 R131, 42 R151) decode to it, and
the illegal words of 95 section 3.6 to none. -/
def Obligations.SpecWordsDecode : Prop :=
  decode 0x00000000 = .cmd .nop ∧
  decode 0x010053CA = .cmd (.add 0x53 0xCA) ∧
  decode 0x020053CA = .cmd (.mul 0x53 0xCA) ∧
  decode 0x030053CA = .cmd (.div 0x53 0xCA) ∧
  decode 0x04000053 = .cmd (.inv 0x53) ∧
  decode 0x10030002 = .cmd (.eval 0x03 0x02) ∧
  decode 0x20020000 = .cmd (.lagr 0x02) ∧
  [0x7F000000, 0x01010000, 0x04000100, 0x10010100, 0x20020001, 0x00000001, 0xFF000000,
    0x05000000].all (fun w => !legalWord w) = true

/-- Decoding the encoding of a command gives it back, for every command and every operand. -/
def Obligations.DecodeOfEncode : Prop := ∀ i : Instr, decode (encode i) = .cmd i

/-- A legal word is the encoding of the command it decodes to. -/
def Obligations.EncodeOfDecode : Prop := ∀ (w : Word) (i : Instr), decode w = .cmd i → encode i = w

/-- The match/mask pairs of 30 R82 select exactly the rows the decoder reads, and no word selects two
rows. -/
def Obligations.MatchMaskSelectsRow : Prop :=
  ∀ w : Word,
    (∀ i, decode w = .cmd i → w &&& rowMask i = rowMatch i) ∧
    (∀ i, w &&& rowMask i = rowMatch i → ∃ j, decode w = .cmd j ∧ rowMatch j = rowMatch i) ∧
    (∀ i j, w &&& rowMask i = rowMatch i → w &&& rowMask j = rowMatch j → rowMatch i = rowMatch j)

/-- 30 R84: the 249 op values outside the map are illegal whatever the other fields, and every word is
either exactly one command or illegal. -/
def Obligations.UnassignedOpcodesIllegal : Prop :=
  (∀ w : Word, opField w ∉ [0x00, 0x01, 0x02, 0x03, 0x04, 0x10, 0x20] → ∃ why, decode w = .illegal why) ∧
  ((List.range 256).countP fun v => decide (v ∉ [0x00, 0x01, 0x02, 0x03, 0x04, 0x10, 0x20])) = 249 ∧
  (∀ w : Word,
    (∃ i, decode w = .cmd i ∧ ∀ j, encode j = w ↔ j = i) ∨
    ((∃ why, decode w = .illegal why) ∧ ∀ j, encode j ≠ w))

/-- 30 R83: a word whose op is in the map with a nonzero value in a field the map marks 0 is illegal. -/
def Obligations.ReservedFieldsIllegal : Prop :=
  (∀ w : Word,
    (opField w = 0x00 ∧ (nField w ≠ 0 ∨ aField w ≠ 0 ∨ bField w ≠ 0)) ∨
    ((opField w = 0x01 ∨ opField w = 0x02 ∨ opField w = 0x03) ∧ nField w ≠ 0) ∨
    (opField w = 0x04 ∧ (nField w ≠ 0 ∨ aField w ≠ 0)) ∨
    (opField w = 0x10 ∧ aField w ≠ 0) ∨
    (opField w = 0x20 ∧ (aField w ≠ 0 ∨ bField w ≠ 0)) →
    ∃ why, decode w = .illegal why) ∧
  (∃ why, decode 0x01010000 = .illegal why) ∧
  (∃ why, decode 0x04000100 = .illegal why)

/-- 30 R93, R94: a line with an operand over 8 bits is an error, a line without one encodes as the table
says, and each pseudo-command is its expansion. -/
def Obligations.AssemblerEncodesLines : Prop :=
  (∀ l : AsmLine, l.wellFormed = false → assemble l = none) ∧
  (∀ a b : Byte,
    (assemble .nop).map encode = some 0x00000000 ∧
    (assemble (.add a.toNat b.toNat)).map encode = some (0x01#8 ++ 0x00#8 ++ a ++ b) ∧
    (assemble (.mul a.toNat b.toNat)).map encode = some (0x02#8 ++ 0x00#8 ++ a ++ b) ∧
    (assemble (.div a.toNat b.toNat)).map encode = some (0x03#8 ++ 0x00#8 ++ a ++ b) ∧
    (assemble (.inv b.toNat)).map encode = some (0x04#8 ++ 0x00#8 ++ 0x00#8 ++ b) ∧
    (assemble (.eval a.toNat b.toNat)).map encode = some (0x10#8 ++ a ++ 0x00#8 ++ b) ∧
    (assemble (.lagr a.toNat)).map encode = some (0x20#8 ++ a ++ 0x00#8 ++ 0x00#8)) ∧
  (∀ a b : Nat,
    assemble (.sub a b) = assemble (.add a b) ∧
    assemble (.mov b) = assemble (.add 0 b) ∧
    assemble .clr = assemble (.add 0 0) ∧
    assemble (.sqr a) = assemble (.mul a a))

/-! ## Commands (40, 41, 42): what each leaves when it completes -/

/-- 40 R111: NOP completes and leaves everything but PEND (and the event count) as it was. -/
def Obligations.NopCompletes : Prop :=
  ∀ s : State, exec .nop s = .next { s with pend := false, tick := s.tick + 1 }

/-- 40 R104 (and R112): ADD completes, for all operands and in every state, with RES = a xor b; no flag
is written and nothing else changes (`tick` is the model's own event count). -/
def Obligations.AddCompletes : Prop :=
  ∀ (a b : Byte) (s : State), ∃ k : Nat,
    exec (.add a b) s = .next { s with res := a ^^^ b, pend := false, tick := k }

/-- 40 R106 (and R113): MUL completes, for all operands and in every state, with RES =
EXP[(LOG[a] + LOG[b]) mod 255], and 0 whenever either operand is 0; no flag is written and nothing else
changes (`tick` is the model's own event count). -/
def Obligations.MulCompletes : Prop :=
  ∀ (a b : Byte) (s : State), ∃ c : Nat,
    exec (.mul a b) s = .next
      { s with
        res := if a = 0 ∨ b = 0 then 0x00
          else s.tables.exp[((s.tables.log[a.toNat]'a.isLt).toNat +
            (s.tables.log[b.toNat]'b.isLt).toNat) % 255]'(Nat.mod_lt _ (by decide))
        pend := false
        tick := c }

/-- 40 R114, R107: DIV completes; for b ≠ 0 RES is the quotient and no flag is written, for b = 0 RES is
0x00 and DZ is set. `faults` is 00 R13's record of the run as modelled (log entry 5). -/
def Obligations.DivCompletes : Prop :=
  ∀ (a b : Byte) (s : State),
    exec (.div a b) s = .next
      (if b = 0 then
        { s with
          res := 0x00
          err := { s.err with dz := true }
          faults := s.faults ++ [RunFault.dz]
          pend := false
          tick := s.tick + 1 }
      else
        { s with
          res := if a = 0 then 0x00
            else s.tables.exp[((s.tables.log[a.toNat]'a.isLt).toNat + 255 -
              (s.tables.log[b.toNat]'b.isLt).toNat) % 255]'(Nat.mod_lt _ (by decide))
          pend := false
          tick := s.tick + 1 })

/-- 40 R115, R108: INV completes as DIV of 0x01 by b, the same state in every field; in a machine whose
tables are built it is EXP[(255 - LOG[b]) mod 255] for b ≠ 0. `faults` is 00 R13's record of the run as
modelled (log entry 5). -/
def Obligations.InvCompletes : Prop :=
  ∀ (b : Byte) (s : State),
    (b = 0 → exec (.inv b) s = .next
      { s with
        res := 0x00
        err := { s.err with dz := true }
        faults := s.faults ++ [RunFault.dz]
        pend := false
        tick := s.tick + 1 }) ∧
    (b ≠ 0 → Inv s → s.ready = true → exec (.inv b) s = .next
      { s with
        res := s.tables.exp[(255 - (s.tables.log[b.toNat]'b.isLt).toNat) % 255]'(Nat.mod_lt _ (by decide))
        pend := false
        tick := s.tick + 1 }) ∧
    exec (.inv b) s = exec (.div 0x01 b) s

/-- 41 R131: EVAL completes with RES = the Horner loop over the coefficients; ERR is not written. When
COEF[0..n-1] hold values c 0, ..., c (n-1) those are the coefficients and no fault is recorded. -/
def Obligations.EvalCompletes : Prop :=
  ∀ (n x : Byte) (c : Nat → Byte) (s : State),
    (∀ k, k < n.toNat → s.coefEntry k = some (c k)) →
    exec (.eval n x) s = .next
      { s with res := horner s.tables c x n.toNat, pend := false, tick := s.tick + 1 }

/-- The loop of 41 R131: r <- (r ⊗ x) ⊕ COEF[k] for k = n-1 downto 0. The coefficients above the first
are a polynomial of their own, and the constant term comes last. -/
def Obligations.HornerLoop : Prop :=
  ∀ (t : Tables) (c : Nat → Byte) (x : Byte) (n : Nat),
    horner t c x 0 = 0x00 ∧
    horner t c x (n + 1) = gfMul t (horner t (fun k => c (k + 1)) x n) x ^^^ c 0

/-- 41 R131, 10 R29, 00 R13: an EVAL that reads an entry holding no value completes too; the run is
faulted: recorded once for the command (log entries 5, 20). What such an entry reads as is the model's
free value (log entry 1), so this holds for every value. -/
def Obligations.EvalOfUnwrittenEntryFaultsRun : Prop :=
  ∀ (n x : Byte) (s : State),
    (∃ k, k < n.toNat ∧ s.coefEntry k = none) →
    ∃ r : Byte, exec (.eval n x) s = .next
      { s with
        res := r
        faults := s.faults ++ [RunFault.coefNoValue]
        pend := false
        tick := s.tick + 1 }

/-- 42 R151: LAGR completes with RES = acc; DZ is set exactly when a denominator was 0. When
POINT[0..n-1] hold points those are the operands and no other fault is recorded. `faults` is 00 R13's
record of the run as modelled (log entry 5). -/
def Obligations.LagrCompletes : Prop :=
  ∀ (n : Byte) (p : Nat → Point) (s : State),
    (∀ j, j < n.toNat → s.pointEntry j = some (p j)) →
    exec (.lagr n) s = .next
      (if (lagrange s.tables p n.toNat).2 then
        { s with
          res := (lagrange s.tables p n.toNat).1
          err := { s.err with dz := true }
          faults := s.faults ++ [RunFault.dz]
          pend := false
          tick := s.tick + 1 }
      else
        { s with res := (lagrange s.tables p n.toNat).1, pend := false, tick := s.tick + 1 })

/-- 42 R151, R152: the result is Σ_j y_j ⊗ L_j(0), where L_j(0) is the product over k ≠ j of
x_k ⊘ (x_k ⊕ x_j), taken from 1 in the order of k. -/
def Obligations.LagrangeIsWeightedSum : Prop :=
  ∀ (t : Tables) (p : Nat → Point) (n : Nat),
    (lagrange t p n).1 = xorSum (fun j => gfMul t (p j).y (lagrangeWeightTo t p j n).1) n ∧
    (∀ j k, (lagrangeWeightTo t p j 0).1 = 0x01 ∧
      (lagrangeWeightTo t p j (k + 1)).1 =
        if k = j then (lagrangeWeightTo t p j k).1
        else gfMul t (lagrangeWeightTo t p j k).1 (gfDiv t (p k).x ((p k).x ^^^ (p j).x)).1)

/-- 42 R151, 10 R30, 00 R13: a LAGR that reads an entry holding no value completes too; the run is
faulted: recorded once for the command, before DZ (log entries 5, 20). What such an entry reads as is the
model's free value (log entry 1), so this holds for every value. -/
def Obligations.LagrOfUnwrittenEntryFaultsRun : Prop :=
  ∀ (n : Byte) (s : State),
    (∃ j, j < n.toNat ∧ s.pointEntry j = none) →
    ∃ (r : Byte) (d : Bool), exec (.lagr n) s = .next
      { s with
        res := r
        err := { s.err with dz := s.err.dz || d }
        faults := s.faults ++ [RunFault.pointNoValue] ++ (if d then [RunFault.dz] else [])
        pend := false
        tick := s.tick + 1 }

/-- 30 R91, 10 R24, R26: what no command changes, NOP, ADD, MUL, DIV, INV, EVAL and LAGR alike: the
configuration, READY, the tables, ILL and OVR, PCMD, every byte of the buffers, what the host has to do
and has received (the model's own fields, log entries 1, 2, 4). DZ is not cleared, PEND is 0, NOP leaves
RES, and one event passes. -/
def Obligations.CommandFrame : Prop :=
  ∀ (i : Instr) (s s' : State), exec i s = .next s' →
    s'.params = s.params ∧ s'.ready = s.ready ∧ s'.tables = s.tables ∧
    s'.err.ill = s.err.ill ∧ s'.err.ovr = s.err.ovr ∧ (s.err.dz = true → s'.err.dz = true) ∧
    s'.pcmd = s.pcmd ∧ s'.pend = false ∧
    (∀ a, Memory.read s'.mem a = Memory.read s.mem a) ∧ s'.mem = s.mem ∧
    s'.slack = s.slack ∧ s'.host = s.host ∧ s'.replies = s.replies ∧ s'.launch = s.launch ∧
    s'.tick = s.tick + 1 ∧
    (i = .nop → s'.res = s.res) ∧
    ((∀ a b n, i ≠ .div a b ∧ i ≠ .inv b ∧ i ≠ .lagr n) → s'.err = s.err)

/-- 30 R91, 10 R35, 90 C5: a command's result and its DZ depend only on the tables and the buffer entries
it names: not on STATUS, ERR, RES, other entries or time. -/
def Obligations.CommandReadsOnlyItsOperands : Prop :=
  ∀ (i : Instr) (s t : State),
    s.tables = t.tables →
    (∀ n x k, i = .eval n x → k < n.toNat → s.coefOperand k = t.coefOperand k) →
    (∀ n j, i = .lagr n → j < n.toNat → s.pointOperand j = t.pointOperand j) →
    ∃ s' t', exec i s = .next s' ∧ exec i t = .next t' ∧
      (i ≠ .nop → s'.res = t'.res) ∧
      ∃ d : Bool, s'.err.dz = (s.err.dz || d) ∧ t'.err.dz = (t.err.dz || d)

/-- 41 R131, R135: EVAL's corner cases, in a machine whose tables are built: n = 0 gives 0x00, n = 1
gives COEF[0] for every x, x = 0 gives COEF[0] for every n ≥ 1, x = 1 gives the XOR of the
coefficients. -/
def Obligations.EvalCornerCases : Prop :=
  ∀ (p : Params) (c : Nat → Byte) (x : Byte) (n : Nat),
    horner p.tables c x 0 = 0x00 ∧
    horner p.tables c x 1 = c 0 ∧
    (1 ≤ n → horner p.tables c 0x00 n = c 0) ∧
    horner p.tables c 0x01 n = xorSum c n

/-! ## The field (40, 41, 42), for every valid configuration -/

/-- 00 R7, 90 C2: the four named pairs, and that a POLY without bit 8 is no configuration. -/
def Obligations.NamedConfigurations : Prop :=
  validPair 0x11D 0x02 = true ∧ validPair 0x11B 0x03 = true ∧
  validPair 0x11B 0x02 = false ∧ validPair 0x11D 0x03 = false ∧
  (∀ (poly : BitVec 9) (gen : Byte), poly.getLsbD 8 = false → validPair poly gen = false)

/-- 40 R102, R32 of 10: the tables hold the powers of GEN, and multiplying by GEN = 0x02 is a shift and
a conditional XOR with POLY[7:0]. -/
def Obligations.TablesArePowersOfGen : Prop :=
  ∀ (poly : BitVec 9) (gen : Byte),
    (tableBuild poly gen).exp[0] = 0x01 ∧
    (∀ (i : Nat) (h : i + 1 < 255),
      (tableBuild poly gen).exp[i + 1] = gfMulRef poly (tableBuild poly gen).exp[i] gen) ∧
    (tableBuild poly gen).log[0] = 0x00 ∧
    (poly.getLsbD 8 = true → ∀ e : Byte,
      gfMulRef poly e 0x02 = (e <<< 1) ^^^ (if e.getLsbD 7 then poly.setWidth 8 else 0x00))

/-- 40 R103: the table laws, and the examples of the default instance. -/
def Obligations.TableLaws : Prop :=
  (∀ p : Params,
    p.tables.exp[0] = 0x01 ∧ p.tables.log[1] = 0 ∧
    (∀ (i : Nat) (h : i < 255), (p.tables.logOf (p.tables.exp[i]'h)).toNat = i) ∧
    (∀ x : Byte, x ≠ 0 → (p.tables.logOf x).toNat < 255 ∧
      p.tables.expOf (p.tables.logOf x).toNat = x) ∧
    gfMulRef p.poly p.tables.exp[254] p.gen = 0x01) ∧
  (Params.default.tables.exp[1] = 0x02 ∧ Params.default.tables.exp[8] = 0x1D ∧
    Params.default.tables.exp[254] = 0x8E ∧ Params.default.tables.log[0x02] = 0x01 ∧
    Params.default.tables.log[0x03] = 0x19 ∧ Params.default.tables.log[0xFF] = 0xAF)

/-- 40 R109: the table operations agree with polynomial multiplication modulo POLY. -/
def Obligations.TableOpsAgreeWithReference : Prop :=
  ∀ (p : Params) (a b : Byte),
    gfMul p.tables a b = gfMulRef p.poly a b ∧
    (b ≠ 0 → gfMul p.tables (gfDiv p.tables a b).1 b = a)

/-- 40 R110: the field laws. -/
def Obligations.FieldLaws : Prop :=
  ∀ (p : Params) (a b c : Byte),
    (gfAdd a a = 0 ∧ gfAdd a 0 = a ∧ gfAdd a b = gfAdd b a ∧
      gfAdd (gfAdd a b) c = gfAdd a (gfAdd b c)) ∧
    (gfMul p.tables a 1 = a ∧ gfMul p.tables a 0 = 0 ∧ gfMul p.tables a b = gfMul p.tables b a ∧
      gfMul p.tables (gfMul p.tables a b) c = gfMul p.tables a (gfMul p.tables b c) ∧
      gfMul p.tables a (gfAdd b c) = gfAdd (gfMul p.tables a b) (gfMul p.tables a c) ∧
      gfMul p.tables (gfAdd a b) c = gfAdd (gfMul p.tables a c) (gfMul p.tables b c)) ∧
    (b ≠ 0 → gfMul p.tables (gfDiv p.tables a b).1 b = a ∧ gfMul p.tables (gfInv p.tables b).1 b = 1 ∧
      (gfDiv p.tables 0 b).1 = 0 ∧ (gfDiv p.tables b b).1 = 1) ∧
    gfDiv p.tables a 0 = (0x00, true)

/-- 41 R132: Horner's form and the sum form agree, Σ COEF[k] ⊗ x^k with x^0 = 1 also for x = 0. -/
def Obligations.HornerIsSumOfPowers : Prop :=
  ∀ (p : Params) (c : Nat → Byte) (x : Byte) (n : Nat),
    horner p.tables c x n = xorSum (fun k => gfMul p.tables (c k) (tablePow p.tables x k)) n

/-- 42 R153: the result and the DZ indication of LAGR do not change under any permutation of the
points. -/
def Obligations.LagrangeOrderIndependent : Prop :=
  ∀ (p : Params) (n : Nat) (σ : Equiv.Perm (Fin n)) (f g : Nat → Point),
    (∀ j : Fin n, g j.val = f (σ j).val) →
    lagrange p.tables g n = lagrange p.tables f n

/-- 42 R155: if the x are pairwise distinct and the points lie on one polynomial f of degree < n, LAGR
returns f(0) with DZ not set. -/
def Obligations.LagrangeRecoversConstantTerm : Prop :=
  ∀ (p : Params) (n : Nat) (c : Nat → Byte) (pt : Nat → Point),
    1 ≤ n → DistinctX pt n → (∀ j, j < n → (pt j).y = horner p.tables c (pt j).x n) →
    lagrange p.tables pt n = (c 0, false)

/-- 42 R156: with two equal x the quotient of that pair is 0x00 with dz = 1, the weights of both points are
0x00, and LAGR completes with RES = acc of 42 R151, which is the sum of y_l ⊗ L_l(0) over the points whose
x occurs only once, and with DZ set. DZ is indicated in no other case (60 R171). -/
def Obligations.LagrangeOfDuplicates : Prop :=
  (∀ (t : Tables) (p : Nat → Point) (n : Nat),
    ((lagrange t p n).2 = true ↔ ∃ j k, j < n ∧ k < n ∧ k ≠ j ∧ (p k).x = (p j).x) ∧
    (∀ j k, j < n → k < n → k ≠ j → (p k).x = (p j).x →
      gfDiv t (p k).x (gfAdd (p k).x (p j).x) = (0x00, true) ∧
      (lagrangeWeightTo t p j n).1 = 0x00 ∧ (lagrangeWeightTo t p k n).1 = 0x00) ∧
    (lagrange t p n).1 =
      xorSum (fun l => if OccursOnce p n l then gfMul t (p l).y (lagrangeWeightTo t p l n).1 else 0x00) n) ∧
  (∀ (n : Byte) (s : State),
    (∃ j k, j < n.toNat ∧ k < n.toNat ∧ k ≠ j ∧ (s.pointOperand k).x = (s.pointOperand j).x) →
    ∃ s', exec (.lagr n) s = .next s' ∧
      s'.res = (lagrange s.tables s.pointOperand n.toNat).1 ∧ s'.err.dz = true ∧ s'.pend = false) ∧
  (∀ (t : Tables) (p : Nat → Point), p 0 = ⟨0x01, 0x10⟩ → p 1 = ⟨0x01, 0x20⟩ →
    lagrange t p 2 = (0x00, true))

/-- 42 R157: a point with x = 0 among otherwise distinct points has weight 1, every other point weight
0, and LAGR returns its y. -/
def Obligations.LagrangeOfZeroPoint : Prop :=
  ∀ (p : Params) (n : Nat) (pt : Nat → Point) (z : Nat),
    z < n → (pt z).x = 0 → DistinctX pt n →
    (lagrangeWeightTo p.tables pt z n).1 = 0x01 ∧
    (∀ j, j < n → j ≠ z → (lagrangeWeightTo p.tables pt j n).1 = 0x00) ∧
    lagrange p.tables pt n = ((pt z).y, false)

/-! ## The host port (20) -/

/-- 20 R54 and 10 R23-R28: what a read of each register returns, whatever the state. -/
def Obligations.RegisterReads : Prop :=
  ∀ s : State,
    s.serve (.read 0x0000 .four) = { s with replies := s.replies ++ [.data 0x4B534301] } ∧
    s.serve (.read 0x0004 .four) = { s with replies := s.replies ++
      [.data (0#30 ++ BitVec.ofBool (!s.ready || s.pend) ++ BitVec.ofBool s.ready)] } ∧
    s.serve (.read 0x0008 .four) = { s with replies := s.replies ++
      [.data (0#29 ++ BitVec.ofBool s.err.ovr ++ BitVec.ofBool s.err.ill ++ BitVec.ofBool s.err.dz)] } ∧
    s.serve (.read 0x000C .four) = { s with replies := s.replies ++ [.data 0x00000000] } ∧
    s.serve (.read 0x0010 .four) = { s with replies := s.replies ++ [.data (s.res.setWidth 32)] } ∧
    s.serve (.read 0x0014 .four) = { s with replies := s.replies ++
      [.data (0#8 ++ s.params.gen ++ 0#7 ++ s.params.poly)] }

/-- 20 R62-R64: the LOG and EXP windows: the table entry when READY = 1, 0 for EXP index 255, 0 for
every index while READY = 0. -/
def Obligations.TableWindows : Prop :=
  ∀ (s : State) (v : Byte),
    s.serve (.read (BitVec.ofNat 13 (0x1000 + 4 * v.toNat)) .four) = { s with replies := s.replies ++
      [.data (if s.ready then (s.tables.log[v.toNat]'v.isLt).setWidth 32 else 0)] } ∧
    s.serve (.read (BitVec.ofNat 13 (0x1400 + 4 * v.toNat)) .four) = { s with replies := s.replies ++
      [.data (if h : v.toNat < 255 then (if s.ready then s.tables.exp[v.toNat].setWidth 32 else 0) else 0)] }

/-- 20 R55, R56 (and R52): a reserved, misaligned or narrow access gets BUSERR: read data 0x00000000, no
state of KSCORE changes, only the host learns of it; the run is faulted, which the model records in
`faults` (R56; the list is the model's, log entry 5). -/
def Obligations.BusErrorHasNoEffect : Prop :=
  ∀ (s : State) (addr : Addr) (size : Size) (w : Word),
    (addr.toNat % 4 ≠ 0 ∨ size ≠ .four ∨
      (0x0018 ≤ addr.toNat ∧ addr.toNat ≤ 0x03FF) ∨
      (0x0C00 ≤ addr.toNat ∧ addr.toNat ≤ 0x0FFF) ∨
      (0x1800 ≤ addr.toNat ∧ addr.toNat ≤ 0x1FFF)) →
    s.serve (.read addr size) =
      { s with faults := s.faults ++ [.busErr], replies := s.replies ++ [.readBusErr 0x00000000] } ∧
    s.serve (.write addr size w) =
      { s with faults := s.faults ++ [.busErr], replies := s.replies ++ [.writeBusErr] }

/-- 20 R57: no read of any address has a side effect, and a second read returns what the first did; a
write to COEF, POINT or ERR twice is the same as once. -/
def Obligations.ReadsHaveNoSideEffect : Prop :=
  (∀ (s : State) (addr : Addr) (size : Size), SameBlock (s.serve (.read addr size)) s ∧
    ∃ r, (s.serve (.read addr size)).replies = s.replies ++ [r] ∧
      ((s.serve (.read addr size)).serve (.read addr size)).replies = s.replies ++ [r, r]) ∧
  (∀ (s : State) (addr : Addr) (w : Word),
    (addr = 0x0008 ∨ (0x0400 ≤ addr.toNat ∧ addr.toNat < 0x0C00)) →
    SameBlock ((s.serve (.write addr .four w)).serve (.write addr .four w)) (s.serve (.write addr .four w)))

/-- 20 R58: a write to a read-only location is served, is ignored and sets no ERR bit, whether or not
BUSY = 1; a read of CMD or of a COEF entry returns 0. -/
def Obligations.ReadOnlyAndWriteOnly : Prop :=
  (∀ (s : State) (addr : Addr) (w : Word),
    addr.toNat % 4 = 0 →
    (addr = 0x0000 ∨ addr = 0x0004 ∨ addr = 0x0010 ∨ addr = 0x0014 ∨
      (0x1000 ≤ addr.toNat ∧ addr.toNat ≤ 0x17FC)) →
    s.serve (.write addr .four w) = { s with replies := s.replies ++ [.ok] }) ∧
  (∀ (s : State) (addr : Addr),
    addr.toNat % 4 = 0 → (addr = 0x000C ∨ (0x0400 ≤ addr.toNat ∧ addr.toNat ≤ 0x07FC)) →
    s.serve (.read addr .four) = { s with replies := s.replies ++ [.data 0x00000000] })

/-- 20 R60: COEF access. Idle: COEF[k] <- wdata[7:0], entry k now holds a value and nothing else
changes. Busy: dropped with OVR. A read returns 0 whatever COEF[k] holds and is no fault. `faults` is 00
R13's record as modelled (log entry 5), and the byte addresses of the buffers are log entry 10's. -/
def Obligations.CoefAccess : Prop :=
  ∀ (s : State) (k : Byte) (w : Word),
    (s.busy = false →
      ∃ t, s.serve (.write (BitVec.ofNat 13 (0x0400 + 4 * k.toNat)) .four w) = t ∧
        t = { s with mem := t.mem, replies := s.replies ++ [.ok] } ∧
        t.coefEntry k.toNat = some (w.setWidth 8) ∧
        (∀ a, a ≠ 0x0400 + 4 * k.toNat → Memory.read t.mem a = Memory.read s.mem a)) ∧
    (s.busy = true →
      s.serve (.write (BitVec.ofNat 13 (0x0400 + 4 * k.toNat)) .four w) =
        { s with
          err := { s.err with ovr := true }
          faults := s.faults ++ [.ovr]
          replies := s.replies ++ [.ok] }) ∧
    s.serve (.read (BitVec.ofNat 13 (0x0400 + 4 * k.toNat)) .four) =
      { s with replies := s.replies ++ [.data 0x00000000] }

/-- 20 R61: POINT access. Idle: x <- wdata[15:8] and y <- wdata[7:0] in one step, bits 31:16 ignored,
nothing else changes. Busy: dropped with OVR. A read returns {16'b0, x, y}, and faults the run if the
entry holds no value: then x and y are free values (log entry 1). `faults` is 00 R13's record as modelled
(log entry 5), and the byte addresses of the buffers are log entry 10's. -/
def Obligations.PointAccess : Prop :=
  ∀ (s : State) (j : Byte) (w : Word),
    (s.busy = false →
      ∃ t, s.serve (.write (BitVec.ofNat 13 (0x0800 + 4 * j.toNat)) .four w) = t ∧
        t = { s with mem := t.mem, replies := s.replies ++ [.ok] } ∧
        t.pointEntry j.toNat = some ⟨w.extractLsb' 8 8, w.extractLsb' 0 8⟩ ∧
        (∀ a, a ≠ 0x0800 + 4 * j.toNat → a ≠ 0x0801 + 4 * j.toNat →
          Memory.read t.mem a = Memory.read s.mem a)) ∧
    (s.busy = true →
      s.serve (.write (BitVec.ofNat 13 (0x0800 + 4 * j.toNat)) .four w) =
        { s with
          err := { s.err with ovr := true }
          faults := s.faults ++ [.ovr]
          replies := s.replies ++ [.ok] }) ∧
    (∀ p : Point, s.pointEntry j.toNat = some p →
      s.serve (.read (BitVec.ofNat 13 (0x0800 + 4 * j.toNat)) .four) =
        { s with replies := s.replies ++ [.data (0#16 ++ p.x ++ p.y)] }) ∧
    (s.pointEntry j.toNat = none → ∃ x y : Byte,
      s.serve (.read (BitVec.ofNat 13 (0x0800 + 4 * j.toNat)) .four) =
        { s with
          replies := s.replies ++ [.data (0#16 ++ x ++ y)]
          faults := s.faults ++ [.pointNoValue] })

/-- 20 R65: while BUSY = 1 a served write to CMD, COEF or POINT changes nothing except OVR; writes to ERR
are performed normally and writes to read-only locations are ignored. `faults` is 00 R13's record as
modelled (log entry 5). -/
def Obligations.BusyDropsWrites : Prop :=
  ∀ (s : State) (addr : Addr) (w : Word), s.busy = true → addr.toNat % 4 = 0 →
    ((addr = 0x000C ∨ (0x0400 ≤ addr.toNat ∧ addr.toNat ≤ 0x0BFC)) →
      s.serve (.write addr .four w) =
        { s with
          err := { s.err with ovr := true }
          faults := s.faults ++ [.ovr]
          replies := s.replies ++ [.ok] }) ∧
    (addr = 0x0008 →
      s.serve (.write addr .four w) =
        { s with
          err := { dz := s.err.dz && !w.getLsbD 0
                   ill := s.err.ill && !w.getLsbD 1
                   ovr := s.err.ovr && !w.getLsbD 2 }
          replies := s.replies ++ [.ok] }) ∧
    ((addr = 0x0000 ∨ addr = 0x0004 ∨ addr = 0x0010 ∨ addr = 0x0014 ∨
      (0x1000 ≤ addr.toNat ∧ addr.toNat ≤ 0x17FC)) →
      s.serve (.write addr .four w) = { s with replies := s.replies ++ [.ok] })

/-- 30 R90: what a served write to CMD does, in the rule's order. When the engine will take its step
(`slack`) is the model's free value (log entries 2, 3); `faults` is 00 R13's record as modelled (log
entry 5). -/
def Obligations.CommandAcceptance : Prop :=
  ∀ (s : State) (w : Word),
    (s.busy = true → s.serve (.write 0x000C .four w) =
      { s with
        err := { s.err with ovr := true }
        faults := s.faults ++ [.ovr]
        replies := s.replies ++ [.ok] }) ∧
    (s.busy = false → (∃ why, decode w = .illegal why) → s.serve (.write 0x000C .four w) =
      { s with
        err := { s.err with ill := true }
        faults := s.faults ++ [.ill]
        replies := s.replies ++ [.ok] }) ∧
    (s.busy = false → (∃ i, decode w = .cmd i) → ∃ d : Nat,
      s.serve (.write 0x000C .four w) =
        { s with pcmd := w, pend := true, slack := d, replies := s.replies ++ [.ok] } ∧
      (s.serve (.write 0x000C .four w)).busy = true)

/-- 10 R24, 60 R177: a served write to ERR clears exactly the bits written 1, whether or not BUSY = 1,
and changes nothing else. -/
def Obligations.ErrIsWriteOneToClear : Prop :=
  ∀ (s : State) (w : Word),
    s.serve (.write 0x0008 .four w) =
      { s with
        err := { dz := s.err.dz && !w.getLsbD 0
                 ill := s.err.ill && !w.getLsbD 1
                 ovr := s.err.ovr && !w.getLsbD 2 }
        replies := s.replies ++ [.ok] }

/-! ## The machine's steps (00, 10, 60, 70) -/

/-- A step completes the pending command: with READY = 1, PEND = 1 and the engine's turn come, the step is
`exec` of the command PCMD decodes to (30 R91). That the turn has come when `slack` is 0 or the host has no
access left is the model's (log entry 2). -/
def Obligations.StepRunsPendingCommand : Prop :=
  ∀ (s : State) (i : Instr), s.ready = true → s.pend = true → (s.host = [] ∨ s.slack = 0) →
    decode s.pcmd = .cmd i → step s = exec i s

/-- A step serves the host's next access when it is the host's turn: the access leaves the program, one
event passes; WAIT reads STATUS and stays while BUSY = 1 (00 R12, 30 R95). When it is the host's turn is
the model's (log entry 2), and so is the host's program as a list (log entry 4). -/
def Obligations.StepServesHostAccess : Prop :=
  (∀ (s : State) (a : BusOp) (rest : List HostOp),
    s.host = .access a :: rest → (s.busy = true → s.slack ≠ 0) →
    ∃ u, u = State.serve { s with host := rest, slack := s.slack - 1 } a ∧
      step s = .next { u with tick := s.tick + 1 }) ∧
  (∀ (s : State) (rest : List HostOp),
    s.host = .wait :: rest → (s.busy = true → s.slack ≠ 0) →
    step s = .next
      { s with
        host := if s.busy then s.host else rest
        slack := s.slack - 1
        replies := s.replies ++ [.data s.statusWord]
        tick := s.tick + 1 })

/-- The init step (70 R202): both tables and READY in one step; nothing else of the block changes, and
BUSY reads 0 when nothing is pending. That it is one step, and when it comes, are log entries 2 and 7. -/
def Obligations.StepBuildsTables : Prop :=
  ∀ s : State, s.ready = false → (s.host = [] ∨ s.slack = 0) →
    ∃ t, step s = .next t ∧
      t = { s with tables := s.params.tables, ready := true, tick := s.tick + 1 } ∧
      (s.pend = false → t.busy = false)

/-- A run has ended exactly when no agent has a step (00 R14); the block then waits (70 R203; staying in
the same state is the model's choice, log entry 6). -/
def Obligations.EndedRunWaits : Prop :=
  ∀ s : State, (nextAgent s = .nobody ↔ s.host = [] ∧ s.busy = false) ∧
    (s.host = [] → s.busy = false → step s = .next s)

/-- 10 R36, 70 R200: every launch, and every reset in mid-run, leaves the values of 10 R36: READY = 0,
BUSY = 1, ERR = 0, RES = 0x00, PEND = 0, no COEF or POINT entry with a value, the same configuration, and
nothing recorded of the run that begins (log entry 18). The default instance is log entry 11's choice. -/
def Obligations.ResetValues : Prop :=
  AfterReset Params.default State.reset ∧
  (∀ p program d, AfterReset p (State.launchWith p program d)) ∧
  (∀ (s : State) program, AfterReset s.params (State.relaunch s program))

/-- The default instance after reset reads as 10 R27, R28, R36 say: ID, STATUS, ERR, RES, PARAM. -/
def Obligations.ResetReads : Prop :=
  State.reset.readWord .id = 0x4B534301 ∧ State.reset.readWord .status = 0x00000002 ∧
  State.reset.readWord .err = 0 ∧ State.reset.readWord .res = 0 ∧
  State.reset.readWord .param = 0x0002011D

/-- The invariant holds at reset and at every launch. Its memory form is the model's (log entry 10). -/
def Obligations.InvariantAtReset : Prop :=
  Inv State.reset ∧ (∀ p program d, Inv (State.launchWith p program d)) ∧
  (∀ s program, Inv (State.relaunch s program))

/-- Every step keeps the invariant: the buffers' canonical form and paired points, the built tables, a
pending command only when they are built (30 R92), and a legal one (30 R90). The form of memory is the
model's (log entry 10). -/
def Obligations.StepKeepsInvariant : Prop :=
  ∀ s s' : State, Inv s → step s = .next s' → Inv s'

/-- The block never stops (93: "every command completes after finitely many steps, and the block never
stops serving the bus"): every state that meets the invariant has a next state. An ended run stays where
it is (log entry 6). -/
def Obligations.BlockNeverStops : Prop :=
  ∀ s : State, Inv s → ∃ s', step s = .next s'

/-- 70 R202: the configuration never changes; READY, once 1, stays 1 until the next reset, and nothing
rebuilds or changes the tables. -/
def Obligations.ReadyAndTablesPersist : Prop :=
  ∀ s s' : State, step s = .next s' →
    s'.params = s.params ∧ (s.ready = true → s'.ready = true ∧ s'.tables = s.tables)

/-- 00 R12: under every interleaving the model has, a busy block becomes idle: within slack + 1 steps
BUSY = 0 (the bound is the model's, log entry 2). -/
def Obligations.BusyEnds : Prop :=
  ∀ s : State, Inv s → s.busy = true →
    ∃ k, k ≤ s.slack + 1 ∧ ∃ t : State, Host.Core.run Sys2Proof.core k s = .next t ∧ t.busy = false

/-- 40 R105, 70 R210, in events: two machines that agree in the timing view (READY, PEND, the op and n of
the pending word, the host's addresses and command ops) take the same agent's step and agree in it
again, whatever their operands, buffers, tables, results and flags. The interleaving is the model's
(log entries 2, 3). -/
def Obligations.TimingIgnoresData : Prop :=
  ∀ s t : State, Inv s → Inv t → s.timing = t.timing →
    nextAgent s = nextAgent t ∧
    ∃ s' t', step s = .next s' ∧ step t = .next t' ∧ s'.timing = t'.timing

/-- 20 R67: while a command stays pending, no step changes PCMD, a buffer byte, the tables or RES: what
the engine reads at completion is what the entries held at acceptance. `slack`, the accesses still to come
first, never grows meanwhile (log entry 2). -/
def Obligations.PendingInputsAreStable : Prop :=
  ∀ s s' : State, step s = .next s' → s.pend = true → s'.pend = true →
    s'.pcmd = s.pcmd ∧ s'.mem = s.mem ∧ s'.res = s.res ∧ s'.slack ≤ s.slack ∧
    (s.ready = true → s'.tables = s.tables)

/-- 10 R26: RES changes only at a command's completion. -/
def Obligations.ResChangesOnlyAtCompletion : Prop :=
  ∀ s s' : State, step s = .next s' → s'.res ≠ s.res →
    s.pend = true ∧ s'.pend = false ∧ ∃ i, i ≠ .nop ∧ decode s.pcmd = .cmd i ∧ exec i s = .next s'

/-- 10 R24, 60 R177: an ERR bit, once set, is cleared only by the host's served write to ERR with 1 in
its position. -/
def Obligations.ErrBitsAreSticky : Prop :=
  ∀ (s s' : State) (e : ErrBit), step s = .next s' → s.err.get e = true → s'.err.get e = false →
    ∃ w rest, s.host = .access (.write 0x0008 .four w) :: rest ∧
      w.getLsbD (match e with | .dz => 0 | .ill => 1 | .ovr => 2) = true

/-- 60 R171-R173: each ERR bit is set only by the event named for it: DZ by completing a DIV or INV with
b = 0 or a LAGR with two equal x, ILL by a write of an illegal word to CMD while BUSY = 0, OVR by a write
to CMD, COEF or POINT while BUSY = 1. -/
def Obligations.ErrBitsSetOnlyByTheirEvents : Prop :=
  ∀ s s' : State, step s = .next s' →
    (s.err.dz = false → s'.err.dz = true → s.pend = true ∧
      ((∃ a, decode s.pcmd = .cmd (.div a 0)) ∨ decode s.pcmd = .cmd (.inv 0) ∨
        (∃ n j k, decode s.pcmd = .cmd (.lagr n) ∧ j < n.toNat ∧ k < n.toNat ∧ k ≠ j ∧
          (s.pointOperand k).x = (s.pointOperand j).x))) ∧
    (s.err.ill = false → s'.err.ill = true → s.busy = false ∧
      ∃ w rest, s.host = .access (.write 0x000C .four w) :: rest ∧ ∃ why, decode w = .illegal why) ∧
    (s.err.ovr = false → s'.err.ovr = true → s.busy = true ∧
      ∃ addr w rest, s.host = .access (.write addr .four w) :: rest ∧ addr.toNat % 4 = 0 ∧
        (addr = 0x000C ∨ (0x0400 ≤ addr.toNat ∧ addr.toNat ≤ 0x0BFC)))

/-- 00 R13: the record of the run only grows, and a step that records nothing sets no ERR bit and gets
no bus error. The record is the model's field (log entry 5). -/
def Obligations.RunFaultsAreRecorded : Prop :=
  ∀ s s' : State, step s = .next s' →
    ∃ new, s'.faults = s.faults ++ new ∧
      (∀ e : ErrBit, s.err.get e = false → s'.err.get e = true → e.runFault ∈ new) ∧
      (∀ r, s'.replies = s.replies ++ [r] →
        (r = .writeBusErr ∨ ∃ w, r = .readBusErr w) → RunFault.busErr ∈ new)

/-- 60 R176: for one access BUSERR comes before OVR, OVR before ILL: a bad access to a busy block sets no
ERR bit, a dropped illegal word raises OVR and not ILL, and only an idle block raises ILL. -/
def Obligations.AccessPriority : Prop :=
  ∀ (s : State) (addr : Addr) (size : Size) (w : Word),
    (target addr size = none → (s.serve (.write addr size w)).err = s.err ∧
      (s.serve (.write addr size w)).pend = s.pend) ∧
    (s.busy = true → (∃ why, decode w = .illegal why) →
      (s.serve (.write 0x000C .four w)).err = { s.err with ovr := true }) ∧
    (s.busy = false → (∃ why, decode w = .illegal why) →
      (s.serve (.write 0x000C .four w)).err = { s.err with ill := true } ∧
      (s.serve (.write 0x000C .four w)).pend = s.pend ∧ (s.serve (.write 0x000C .four w)).res = s.res)

/-- 20 R60, 60 R179, R183: the host learns nothing of COEF but through EVAL: two machines that differ
only in what COEF holds take steps to machines that differ only in that, unless the step completes an
EVAL. -/
def Obligations.CoefHiddenFromHost : Prop :=
  ∀ s t s' : State, SameButCoef s t → step s = .next s' →
    (nextAgent s = .engine → ∀ n x, decode s.pcmd ≠ .cmd (.eval n x)) →
    ∃ t', step t = .next t' ∧ SameButCoef s' t' ∧ t'.replies = s'.replies
end

