-- ==== Sys2Proof/Laws/State.lean ====
section
/-! SUPPORT. What each named operation leaves in each field of the state, one lemma per field. -/

namespace Sys2Proof.Machine

/-! `writeCoef` -/

@[simp] theorem State.writeCoef_params (s : State) (k : Nat) (v : Byte) :
    (s.writeCoef k v).params = s.params := rfl
@[simp] theorem State.writeCoef_ready (s : State) (k : Nat) (v : Byte) :
    (s.writeCoef k v).ready = s.ready := rfl
@[simp] theorem State.writeCoef_err (s : State) (k : Nat) (v : Byte) :
    (s.writeCoef k v).err = s.err := rfl
@[simp] theorem State.writeCoef_res (s : State) (k : Nat) (v : Byte) :
    (s.writeCoef k v).res = s.res := rfl
@[simp] theorem State.writeCoef_mem (s : State) (k : Nat) (v : Byte) :
    (s.writeCoef k v).mem = Memory.write s.mem (coefAddr k) v := rfl
@[simp] theorem State.writeCoef_tables (s : State) (k : Nat) (v : Byte) :
    (s.writeCoef k v).tables = s.tables := rfl
@[simp] theorem State.writeCoef_pend (s : State) (k : Nat) (v : Byte) :
    (s.writeCoef k v).pend = s.pend := rfl
@[simp] theorem State.writeCoef_pcmd (s : State) (k : Nat) (v : Byte) :
    (s.writeCoef k v).pcmd = s.pcmd := rfl
@[simp] theorem State.writeCoef_slack (s : State) (k : Nat) (v : Byte) :
    (s.writeCoef k v).slack = s.slack := rfl
@[simp] theorem State.writeCoef_host (s : State) (k : Nat) (v : Byte) :
    (s.writeCoef k v).host = s.host := rfl
@[simp] theorem State.writeCoef_replies (s : State) (k : Nat) (v : Byte) :
    (s.writeCoef k v).replies = s.replies := rfl
@[simp] theorem State.writeCoef_faults (s : State) (k : Nat) (v : Byte) :
    (s.writeCoef k v).faults = s.faults := rfl
@[simp] theorem State.writeCoef_tick (s : State) (k : Nat) (v : Byte) :
    (s.writeCoef k v).tick = s.tick := rfl
@[simp] theorem State.writeCoef_launch (s : State) (k : Nat) (v : Byte) :
    (s.writeCoef k v).launch = s.launch := rfl

/-! `writePoint` -/

@[simp] theorem State.writePoint_params (s : State) (j : Nat) (p : Point) :
    (s.writePoint j p).params = s.params := rfl
@[simp] theorem State.writePoint_ready (s : State) (j : Nat) (p : Point) :
    (s.writePoint j p).ready = s.ready := rfl
@[simp] theorem State.writePoint_err (s : State) (j : Nat) (p : Point) :
    (s.writePoint j p).err = s.err := rfl
@[simp] theorem State.writePoint_res (s : State) (j : Nat) (p : Point) :
    (s.writePoint j p).res = s.res := rfl
@[simp] theorem State.writePoint_mem (s : State) (j : Nat) (p : Point) :
    (s.writePoint j p).mem = Memory.write (Memory.write s.mem (pointAddr j) p.y) (pointAddr j + 1) p.x := rfl
@[simp] theorem State.writePoint_tables (s : State) (j : Nat) (p : Point) :
    (s.writePoint j p).tables = s.tables := rfl
@[simp] theorem State.writePoint_pend (s : State) (j : Nat) (p : Point) :
    (s.writePoint j p).pend = s.pend := rfl
@[simp] theorem State.writePoint_pcmd (s : State) (j : Nat) (p : Point) :
    (s.writePoint j p).pcmd = s.pcmd := rfl
@[simp] theorem State.writePoint_slack (s : State) (j : Nat) (p : Point) :
    (s.writePoint j p).slack = s.slack := rfl
@[simp] theorem State.writePoint_host (s : State) (j : Nat) (p : Point) :
    (s.writePoint j p).host = s.host := rfl
@[simp] theorem State.writePoint_replies (s : State) (j : Nat) (p : Point) :
    (s.writePoint j p).replies = s.replies := rfl
@[simp] theorem State.writePoint_faults (s : State) (j : Nat) (p : Point) :
    (s.writePoint j p).faults = s.faults := rfl
@[simp] theorem State.writePoint_tick (s : State) (j : Nat) (p : Point) :
    (s.writePoint j p).tick = s.tick := rfl
@[simp] theorem State.writePoint_launch (s : State) (j : Nat) (p : Point) :
    (s.writePoint j p).launch = s.launch := rfl

/-! `record` -/

@[simp] theorem State.record_params (s : State) (f : RunFault) :
    (s.record f).params = s.params := rfl
@[simp] theorem State.record_ready (s : State) (f : RunFault) :
    (s.record f).ready = s.ready := rfl
@[simp] theorem State.record_err (s : State) (f : RunFault) :
    (s.record f).err = s.err := rfl
@[simp] theorem State.record_res (s : State) (f : RunFault) :
    (s.record f).res = s.res := rfl
@[simp] theorem State.record_mem (s : State) (f : RunFault) :
    (s.record f).mem = s.mem := rfl
@[simp] theorem State.record_tables (s : State) (f : RunFault) :
    (s.record f).tables = s.tables := rfl
@[simp] theorem State.record_pend (s : State) (f : RunFault) :
    (s.record f).pend = s.pend := rfl
@[simp] theorem State.record_pcmd (s : State) (f : RunFault) :
    (s.record f).pcmd = s.pcmd := rfl
@[simp] theorem State.record_slack (s : State) (f : RunFault) :
    (s.record f).slack = s.slack := rfl
@[simp] theorem State.record_host (s : State) (f : RunFault) :
    (s.record f).host = s.host := rfl
@[simp] theorem State.record_replies (s : State) (f : RunFault) :
    (s.record f).replies = s.replies := rfl
@[simp] theorem State.record_faults (s : State) (f : RunFault) :
    (s.record f).faults = s.faults ++ [f] := rfl
@[simp] theorem State.record_tick (s : State) (f : RunFault) :
    (s.record f).tick = s.tick := rfl
@[simp] theorem State.record_launch (s : State) (f : RunFault) :
    (s.record f).launch = s.launch := rfl

/-! `raise` -/

@[simp] theorem State.raise_params (s : State) (e : ErrBit) :
    (s.raise e).params = s.params := rfl
@[simp] theorem State.raise_ready (s : State) (e : ErrBit) :
    (s.raise e).ready = s.ready := rfl
@[simp] theorem State.raise_err (s : State) (e : ErrBit) :
    (s.raise e).err = s.err.set e := rfl
@[simp] theorem State.raise_res (s : State) (e : ErrBit) :
    (s.raise e).res = s.res := rfl
@[simp] theorem State.raise_mem (s : State) (e : ErrBit) :
    (s.raise e).mem = s.mem := rfl
@[simp] theorem State.raise_tables (s : State) (e : ErrBit) :
    (s.raise e).tables = s.tables := rfl
@[simp] theorem State.raise_pend (s : State) (e : ErrBit) :
    (s.raise e).pend = s.pend := rfl
@[simp] theorem State.raise_pcmd (s : State) (e : ErrBit) :
    (s.raise e).pcmd = s.pcmd := rfl
@[simp] theorem State.raise_slack (s : State) (e : ErrBit) :
    (s.raise e).slack = s.slack := rfl
@[simp] theorem State.raise_host (s : State) (e : ErrBit) :
    (s.raise e).host = s.host := rfl
@[simp] theorem State.raise_replies (s : State) (e : ErrBit) :
    (s.raise e).replies = s.replies := rfl
@[simp] theorem State.raise_faults (s : State) (e : ErrBit) :
    (s.raise e).faults = s.faults ++ [e.runFault] := rfl
@[simp] theorem State.raise_tick (s : State) (e : ErrBit) :
    (s.raise e).tick = s.tick := rfl
@[simp] theorem State.raise_launch (s : State) (e : ErrBit) :
    (s.raise e).launch = s.launch := rfl

/-! `reply` -/

@[simp] theorem State.reply_params (s : State) (r : Reply) :
    (s.reply r).params = s.params := rfl
@[simp] theorem State.reply_ready (s : State) (r : Reply) :
    (s.reply r).ready = s.ready := rfl
@[simp] theorem State.reply_err (s : State) (r : Reply) :
    (s.reply r).err = s.err := rfl
@[simp] theorem State.reply_res (s : State) (r : Reply) :
    (s.reply r).res = s.res := rfl
@[simp] theorem State.reply_mem (s : State) (r : Reply) :
    (s.reply r).mem = s.mem := rfl
@[simp] theorem State.reply_tables (s : State) (r : Reply) :
    (s.reply r).tables = s.tables := rfl
@[simp] theorem State.reply_pend (s : State) (r : Reply) :
    (s.reply r).pend = s.pend := rfl
@[simp] theorem State.reply_pcmd (s : State) (r : Reply) :
    (s.reply r).pcmd = s.pcmd := rfl
@[simp] theorem State.reply_slack (s : State) (r : Reply) :
    (s.reply r).slack = s.slack := rfl
@[simp] theorem State.reply_host (s : State) (r : Reply) :
    (s.reply r).host = s.host := rfl
@[simp] theorem State.reply_replies (s : State) (r : Reply) :
    (s.reply r).replies = s.replies ++ [r] := rfl
@[simp] theorem State.reply_faults (s : State) (r : Reply) :
    (s.reply r).faults = s.faults := rfl
@[simp] theorem State.reply_tick (s : State) (r : Reply) :
    (s.reply r).tick = s.tick := rfl
@[simp] theorem State.reply_launch (s : State) (r : Reply) :
    (s.reply r).launch = s.launch := rfl

/-! `advance` -/

@[simp] theorem State.advance_params (s : State) :
    (s.advance).params = s.params := rfl
@[simp] theorem State.advance_ready (s : State) :
    (s.advance).ready = s.ready := rfl
@[simp] theorem State.advance_err (s : State) :
    (s.advance).err = s.err := rfl
@[simp] theorem State.advance_res (s : State) :
    (s.advance).res = s.res := rfl
@[simp] theorem State.advance_mem (s : State) :
    (s.advance).mem = s.mem := rfl
@[simp] theorem State.advance_tables (s : State) :
    (s.advance).tables = s.tables := rfl
@[simp] theorem State.advance_pend (s : State) :
    (s.advance).pend = s.pend := rfl
@[simp] theorem State.advance_pcmd (s : State) :
    (s.advance).pcmd = s.pcmd := rfl
@[simp] theorem State.advance_slack (s : State) :
    (s.advance).slack = s.slack := rfl
@[simp] theorem State.advance_host (s : State) :
    (s.advance).host = s.host := rfl
@[simp] theorem State.advance_replies (s : State) :
    (s.advance).replies = s.replies := rfl
@[simp] theorem State.advance_faults (s : State) :
    (s.advance).faults = s.faults := rfl
@[simp] theorem State.advance_tick (s : State) :
    (s.advance).tick = s.tick + 1 := rfl
@[simp] theorem State.advance_launch (s : State) :
    (s.advance).launch = s.launch := rfl

/-! `complete` -/

@[simp] theorem State.complete_params (s : State) (out : Result) (touched : List RunFault) :
    (s.complete out touched).params = s.params := rfl
@[simp] theorem State.complete_ready (s : State) (out : Result) (touched : List RunFault) :
    (s.complete out touched).ready = s.ready := rfl
@[simp] theorem State.complete_err (s : State) (out : Result) (touched : List RunFault) :
    (s.complete out touched).err = bif out.dz then s.err.set .dz else s.err := rfl
@[simp] theorem State.complete_res (s : State) (out : Result) (touched : List RunFault) :
    (s.complete out touched).res = bif out.writesRes then out.r else s.res := rfl
@[simp] theorem State.complete_mem (s : State) (out : Result) (touched : List RunFault) :
    (s.complete out touched).mem = s.mem := rfl
@[simp] theorem State.complete_tables (s : State) (out : Result) (touched : List RunFault) :
    (s.complete out touched).tables = s.tables := rfl
@[simp] theorem State.complete_pend (s : State) (out : Result) (touched : List RunFault) :
    (s.complete out touched).pend = false := rfl
@[simp] theorem State.complete_pcmd (s : State) (out : Result) (touched : List RunFault) :
    (s.complete out touched).pcmd = s.pcmd := rfl
@[simp] theorem State.complete_slack (s : State) (out : Result) (touched : List RunFault) :
    (s.complete out touched).slack = s.slack := rfl
@[simp] theorem State.complete_host (s : State) (out : Result) (touched : List RunFault) :
    (s.complete out touched).host = s.host := rfl
@[simp] theorem State.complete_replies (s : State) (out : Result) (touched : List RunFault) :
    (s.complete out touched).replies = s.replies := rfl
@[simp] theorem State.complete_faults (s : State) (out : Result) (touched : List RunFault) :
    (s.complete out touched).faults = s.faults ++ touched ++ (bif out.dz then [RunFault.dz] else []) := rfl
@[simp] theorem State.complete_tick (s : State) (out : Result) (touched : List RunFault) :
    (s.complete out touched).tick = s.tick + 1 := rfl
@[simp] theorem State.complete_launch (s : State) (out : Result) (touched : List RunFault) :
    (s.complete out touched).launch = s.launch := rfl

/-! `serveRead` -/

@[simp] theorem State.serveRead_params (s : State) (l : Loc) :
    (s.serveRead l).params = s.params := rfl
@[simp] theorem State.serveRead_ready (s : State) (l : Loc) :
    (s.serveRead l).ready = s.ready := rfl
@[simp] theorem State.serveRead_err (s : State) (l : Loc) :
    (s.serveRead l).err = s.err := rfl
@[simp] theorem State.serveRead_res (s : State) (l : Loc) :
    (s.serveRead l).res = s.res := rfl
@[simp] theorem State.serveRead_mem (s : State) (l : Loc) :
    (s.serveRead l).mem = s.mem := rfl
@[simp] theorem State.serveRead_tables (s : State) (l : Loc) :
    (s.serveRead l).tables = s.tables := rfl
@[simp] theorem State.serveRead_pend (s : State) (l : Loc) :
    (s.serveRead l).pend = s.pend := rfl
@[simp] theorem State.serveRead_pcmd (s : State) (l : Loc) :
    (s.serveRead l).pcmd = s.pcmd := rfl
@[simp] theorem State.serveRead_slack (s : State) (l : Loc) :
    (s.serveRead l).slack = s.slack := rfl
@[simp] theorem State.serveRead_host (s : State) (l : Loc) :
    (s.serveRead l).host = s.host := rfl
@[simp] theorem State.serveRead_replies (s : State) (l : Loc) :
    (s.serveRead l).replies = s.replies ++ [Reply.data (s.readWord l)] := rfl
@[simp] theorem State.serveRead_faults (s : State) (l : Loc) :
    (s.serveRead l).faults = s.faults ++ s.readFaults l := rfl
@[simp] theorem State.serveRead_tick (s : State) (l : Loc) :
    (s.serveRead l).tick = s.tick := rfl
@[simp] theorem State.serveRead_launch (s : State) (l : Loc) :
    (s.serveRead l).launch = s.launch := rfl

/-! `setPending` -/

@[simp] theorem State.setPending_params (s : State) (w : Word) :
    (s.setPending w).params = s.params := rfl
@[simp] theorem State.setPending_ready (s : State) (w : Word) :
    (s.setPending w).ready = s.ready := rfl
@[simp] theorem State.setPending_err (s : State) (w : Word) :
    (s.setPending w).err = s.err := rfl
@[simp] theorem State.setPending_res (s : State) (w : Word) :
    (s.setPending w).res = s.res := rfl
@[simp] theorem State.setPending_mem (s : State) (w : Word) :
    (s.setPending w).mem = s.mem := rfl
@[simp] theorem State.setPending_tables (s : State) (w : Word) :
    (s.setPending w).tables = s.tables := rfl
@[simp] theorem State.setPending_pend (s : State) (w : Word) :
    (s.setPending w).pend = true := rfl
@[simp] theorem State.setPending_pcmd (s : State) (w : Word) :
    (s.setPending w).pcmd = w := rfl
@[simp] theorem State.setPending_slack (s : State) (w : Word) :
    (s.setPending w).slack = Config.freeSlack (Config.latency (opField w) (nField w)) s.tick := rfl
@[simp] theorem State.setPending_host (s : State) (w : Word) :
    (s.setPending w).host = s.host := rfl
@[simp] theorem State.setPending_replies (s : State) (w : Word) :
    (s.setPending w).replies = s.replies := rfl
@[simp] theorem State.setPending_faults (s : State) (w : Word) :
    (s.setPending w).faults = s.faults := rfl
@[simp] theorem State.setPending_tick (s : State) (w : Word) :
    (s.setPending w).tick = s.tick := rfl
@[simp] theorem State.setPending_launch (s : State) (w : Word) :
    (s.setPending w).launch = s.launch := rfl

/-! `placePending` -/

@[simp] theorem State.placePending_params (s : State) (w : Word) :
    (s.placePending w).params = s.params := rfl
@[simp] theorem State.placePending_ready (s : State) (w : Word) :
    (s.placePending w).ready = true := rfl
@[simp] theorem State.placePending_err (s : State) (w : Word) :
    (s.placePending w).err = s.err := rfl
@[simp] theorem State.placePending_res (s : State) (w : Word) :
    (s.placePending w).res = s.res := rfl
@[simp] theorem State.placePending_mem (s : State) (w : Word) :
    (s.placePending w).mem = s.mem := rfl
@[simp] theorem State.placePending_tables (s : State) (w : Word) :
    (s.placePending w).tables = s.params.tables := rfl
@[simp] theorem State.placePending_pend (s : State) (w : Word) :
    (s.placePending w).pend = true := rfl
@[simp] theorem State.placePending_pcmd (s : State) (w : Word) :
    (s.placePending w).pcmd = w := rfl
@[simp] theorem State.placePending_slack (s : State) (w : Word) :
    (s.placePending w).slack = 0 := rfl
@[simp] theorem State.placePending_host (s : State) (w : Word) :
    (s.placePending w).host = s.host := rfl
@[simp] theorem State.placePending_replies (s : State) (w : Word) :
    (s.placePending w).replies = s.replies := rfl
@[simp] theorem State.placePending_faults (s : State) (w : Word) :
    (s.placePending w).faults = s.faults := rfl
@[simp] theorem State.placePending_tick (s : State) (w : Word) :
    (s.placePending w).tick = s.tick := rfl
@[simp] theorem State.placePending_launch (s : State) (w : Word) :
    (s.placePending w).launch = s.launch := rfl

/-! `initStep` -/

@[simp] theorem initStep_params (s : State) :
    (initStep s).params = s.params := rfl
@[simp] theorem initStep_ready (s : State) :
    (initStep s).ready = true := rfl
@[simp] theorem initStep_err (s : State) :
    (initStep s).err = s.err := rfl
@[simp] theorem initStep_res (s : State) :
    (initStep s).res = s.res := rfl
@[simp] theorem initStep_mem (s : State) :
    (initStep s).mem = s.mem := rfl
@[simp] theorem initStep_tables (s : State) :
    (initStep s).tables = s.params.tables := rfl
@[simp] theorem initStep_pend (s : State) :
    (initStep s).pend = s.pend := rfl
@[simp] theorem initStep_pcmd (s : State) :
    (initStep s).pcmd = s.pcmd := rfl
@[simp] theorem initStep_slack (s : State) :
    (initStep s).slack = s.slack := rfl
@[simp] theorem initStep_host (s : State) :
    (initStep s).host = s.host := rfl
@[simp] theorem initStep_replies (s : State) :
    (initStep s).replies = s.replies := rfl
@[simp] theorem initStep_faults (s : State) :
    (initStep s).faults = s.faults := rfl
@[simp] theorem initStep_tick (s : State) :
    (initStep s).tick = s.tick + 1 := rfl
@[simp] theorem initStep_launch (s : State) :
    (initStep s).launch = s.launch := rfl

end Sys2Proof.Machine
end

