-- ==== Sys2Proof/Laws/Bus.lean ====
section
/-! SUPPORT. Everything a host access can do: one lemma for a write to CMD, one for a write, one for a
read. -/

namespace Sys2Proof.Machine

/-- What a served write to CMD does (30 R90). -/
theorem accept_cases (s : State) (w : Word) :
    (s.busy = true ∧ s.accept w = s.raise .ovr) ∨
    (s.busy = false ∧ legalWord w = true ∧ s.accept w = s.setPending w) ∨
    (s.busy = false ∧ legalWord w = false ∧ s.accept w = s.raise .ill) := by
  unfold State.accept
  cases s.busy <;> cases legalWord w <;> simp

/-- What a write does, by the place it reaches (20 R58-R61, R65; 60 R176). -/
theorem serve_write_cases (s : State) (addr : Addr) (size : Size) (w : Word) :
    (target addr size = none ∧
      s.serve (.write addr size w) = (s.record .busErr).reply .writeBusErr) ∨
    (target addr size = some .err ∧
      s.serve (.write addr size w) = State.reply { s with err := s.err.clear w } .ok) ∨
    (target addr size = some .cmd ∧ s.serve (.write addr size w) = (s.accept w).reply .ok) ∨
    (∃ k, target addr size = some (.coef k) ∧ s.busy = false ∧
      s.serve (.write addr size w) = (s.writeCoef k.toNat (w.extractLsb' 0 8)).reply .ok) ∨
    (∃ j, target addr size = some (.point j) ∧ s.busy = false ∧
      s.serve (.write addr size w) = (s.writePoint j.toNat (Point.ofWord w)).reply .ok) ∨
    (((∃ k, target addr size = some (.coef k)) ∨ ∃ j, target addr size = some (.point j)) ∧
      s.busy = true ∧ s.serve (.write addr size w) = (s.raise .ovr).reply .ok) ∨
    ((∃ l, target addr size = some l ∧ l ≠ .err ∧ l ≠ .cmd ∧ (∀ k, l ≠ .coef k) ∧ ∀ j, l ≠ .point j) ∧
      s.serve (.write addr size w) = s.reply .ok) := by
  simp only [State.serve]
  cases ht : target addr size with
  | none => simp
  | some l => cases l <;> cases hb : s.busy <;> simp [State.serveWrite, hb]

/-- What a read does (20 R56, R57). -/
theorem serve_read_cases (s : State) (addr : Addr) (size : Size) :
    (target addr size = none ∧
      s.serve (.read addr size) = (s.record .busErr).reply (.readBusErr 0x00000000)) ∨
    (∃ l, target addr size = some l ∧ s.serve (.read addr size) = s.serveRead l) := by
  simp only [State.serve]
  cases target addr size <;> simp

end Sys2Proof.Machine
end

