-- ==== Sys2Proof/Laws/Decode.lean ====
section
/-! SUPPORT. The fields of a packed word, and a word from its fields. -/

namespace Sys2Proof

theorem packFields_getLsbD (op n a b : Byte) (k : Nat) :
    (packFields op n a b).getLsbD k =
      if k < 8 then b.getLsbD k
      else if k < 16 then a.getLsbD (k - 8)
      else if k < 24 then n.getLsbD (k - 16)
      else op.getLsbD (k - 24) := by
  show BitVec.getLsbD (w := 8 + 8 + 8 + 8) (op ++ n ++ a ++ b) k = _
  simp only [BitVec.getLsbD_append]
  split
  · rfl
  · split <;> rename_i h1 h2
    · simp [show k < 16 by omega]
    · split <;> rename_i h3
      · simp [show k < 24 by omega, show ¬ k < 16 by omega, Nat.sub_sub]
      · simp [show ¬ k < 24 by omega, show ¬ k < 16 by omega, Nat.sub_sub]

@[simp] theorem opField_packFields (op n a b : Byte) : opField (packFields op n a b) = op := by
  apply BitVec.eq_of_getLsbD_eq
  intro k hk
  simp [opField, packFields_getLsbD, hk, show ¬ 24 + k < 8 by omega, show ¬ 24 + k < 16 by omega]

@[simp] theorem nField_packFields (op n a b : Byte) : nField (packFields op n a b) = n := by
  apply BitVec.eq_of_getLsbD_eq
  intro k hk
  simp [nField, packFields_getLsbD, hk, show ¬ 16 + k < 8 by omega, show 16 + k < 24 by omega]

@[simp] theorem aField_packFields (op n a b : Byte) : aField (packFields op n a b) = a := by
  apply BitVec.eq_of_getLsbD_eq
  intro k hk
  simp [aField, packFields_getLsbD, hk, show 8 + k < 16 by omega]

@[simp] theorem bField_packFields (op n a b : Byte) : bField (packFields op n a b) = b := by
  apply BitVec.eq_of_getLsbD_eq
  intro k hk
  simp [bField, packFields_getLsbD, hk]

/-- A word is the packing of its four fields (30 R80). -/
theorem packFields_fields (w : Word) :
    packFields (opField w) (nField w) (aField w) (bField w) = w := by
  apply BitVec.eq_of_getLsbD_eq
  intro k hk
  simp only [packFields_getLsbD, opField, nField, aField, bField, BitVec.getLsbD_extractLsb']
  repeat' split
  all_goals (rw [decide_eq_true (by omega), Bool.true_and]; congr 1; omega)

end Sys2Proof
end

