-- ==== Sys2Proof/Laws/Exec.lean ====
section
/-! SUPPORT. Everything a command's completion step can do. -/

namespace Sys2Proof.Machine

/-- What a command returns and which run faults it adds for the buffer entries it reads (30 R91). -/
def outcomeOf (i : Instr) (s : State) : Result × List RunFault :=
  match i with
  | .nop => ({ r := s.res, dz := false, writesRes := false }, [])
  | .add a b => ({ r := gfAdd a b, dz := false, writesRes := true }, [])
  | .mul a b => ({ r := gfMul s.tables a b, dz := false, writesRes := true }, [])
  | .div a b => ({ r := (gfDiv s.tables a b).1, dz := (gfDiv s.tables a b).2, writesRes := true }, [])
  | .inv b => ({ r := (gfInv s.tables b).1, dz := (gfInv s.tables b).2, writesRes := true }, [])
  | .eval n x =>
    ({ r := horner s.tables s.coefOperand x n.toNat, dz := false, writesRes := true },
      s.coefFaults n.toNat)
  | .lagr n =>
    ({ r := (lagrange s.tables s.pointOperand n.toNat).1
       dz := (lagrange s.tables s.pointOperand n.toNat).2, writesRes := true },
      s.pointFaults n.toNat)

/-- Every command completes, and its step is the completion step of 30 R91. -/
theorem exec_eq_complete (i : Instr) (s : State) :
    exec i s = .next (s.complete (outcomeOf i s).1 (outcomeOf i s).2) := by
  cases i <;> rfl

end Sys2Proof.Machine
end

