-- ==== Sys2Proof/Laws/Memory.lean ====
section
/-! SUPPORT. The laws of the buffers' bytes: read after write, and that a write keeps the canonical
form. -/

namespace Sys2Proof.Machine

theorem Memory.read_write_same (m : Memory) (a : Nat) (v : Byte) :
    Memory.read (Memory.write m a v) a = some v := by
  induction m with
  | nil => simp [Memory.write, Memory.read]
  | cons c rest ih =>
    obtain ⟨b, w⟩ := c
    simp only [Memory.write]
    split
    · simp [Memory.read]
    · split
      · simp [Memory.read]
      · simp_all [Memory.read]

theorem Memory.read_write_ne (m : Memory) (a a' : Nat) (v : Byte) (h : a' ≠ a) :
    Memory.read (Memory.write m a v) a' = Memory.read m a' := by
  induction m with
  | nil => simp [Memory.write, Memory.read, h]
  | cons c rest ih =>
    obtain ⟨b, w⟩ := c
    simp only [Memory.write]
    split
    · simp [Memory.read, h]
    · split
      · rename_i hab
        simp [Memory.read, h, ← hab]
      · simp [Memory.read, ih]

theorem Memory.mem_write (m : Memory) (a : Nat) (v : Byte) (c : Host.Cell)
    (hc : c ∈ Memory.write m a v) : c = (a, v) ∨ c ∈ m := by
  induction m with
  | nil => simpa [Memory.write] using hc
  | cons d rest ih =>
    obtain ⟨b, w⟩ := d
    simp only [Memory.write] at hc
    split at hc
    · simpa using hc
    · split at hc
      · rcases List.mem_cons.1 hc with h | h
        · exact .inl h
        · exact .inr (List.mem_cons_of_mem _ h)
      · rcases List.mem_cons.1 hc with h | h
        · exact .inr (h ▸ List.mem_cons_self)
        · exact (ih h).imp_right (List.mem_cons_of_mem _)

theorem Memory.rising_write (m : Memory) (a : Nat) (v : Byte) (h : Memory.rising m = true) :
    Memory.rising (Memory.write m a v) = true := by
  simp only [Memory.rising, decide_eq_true_eq] at h ⊢
  induction m with
  | nil => simp [Memory.write]
  | cons d rest ih =>
    obtain ⟨b, w⟩ := d
    obtain ⟨hb, hr⟩ := List.pairwise_cons.1 h
    simp only [Memory.write]
    split
    · rename_i hab
      refine List.pairwise_cons.2 ⟨fun c hc => ?_, h⟩
      rcases List.mem_cons.1 hc with rfl | hc
      · exact hab
      · exact Nat.lt_trans hab (hb c hc)
    · rename_i hab
      split
      · rename_i heq
        subst heq
        exact List.pairwise_cons.2 ⟨hb, hr⟩
      · refine List.pairwise_cons.2 ⟨fun c hc => ?_, ih hr⟩
        rcases Memory.mem_write rest a v c hc with rfl | hc
        · show b < a
          omega
        · exact hb c hc

theorem Memory.all_write (m : Memory) (a : Nat) (v : Byte) (q : Nat → Bool) (ha : q a = true)
    (h : (m.all fun c => q c.1) = true) : ((Memory.write m a v).all fun c => q c.1) = true := by
  induction m with
  | nil => simp [Memory.write, ha]
  | cons c rest ih =>
    obtain ⟨b, w⟩ := c
    simp only [List.all_cons, Bool.and_eq_true] at h
    simp only [Memory.write]
    split
    · simp [ha, h]
    · split
      · simp [ha, h]
      · simp [h.1, ih h.2]

/-- A write to a byte that holds buffer contents keeps the canonical form. -/
theorem Memory.wf_write (m : Memory) (a : Nat) (v : Byte) (ha : storageAddr a = true)
    (h : Memory.wf m = true) : Memory.wf (Memory.write m a v) = true := by
  simp only [Memory.wf, Bool.and_eq_true] at h ⊢
  exact ⟨Memory.rising_write m a v h.1, Memory.all_write m a v storageAddr ha h.2⟩

theorem storageAddr_coef (k : Byte) : storageAddr (coefAddr k.toNat) = true := by
  have h : k.toNat < 256 := k.isLt
  simp only [storageAddr, decide_eq_true_eq]
  unfold coefAddr
  omega

theorem storageAddr_pointY (j : Byte) : storageAddr (pointAddr j.toNat) = true := by
  have h : j.toNat < 256 := j.isLt
  simp only [storageAddr, decide_eq_true_eq]
  unfold pointAddr
  omega

theorem storageAddr_pointX (j : Byte) : storageAddr (pointAddr j.toNat + 1) = true := by
  have h : j.toNat < 256 := j.isLt
  simp only [storageAddr, decide_eq_true_eq]
  unfold pointAddr
  omega

/-- A write to COEF keeps the canonical form. -/
theorem State.writeCoef_wf (s : State) (k v : Byte) (h : Memory.wf s.mem = true) :
    Memory.wf (s.writeCoef k.toNat v).mem = true :=
  Memory.wf_write _ _ _ (storageAddr_coef k) h

/-- A write to POINT keeps the canonical form. -/
theorem State.writePoint_wf (s : State) (j : Byte) (p : Point) (h : Memory.wf s.mem = true) :
    Memory.wf (s.writePoint j.toNat p).mem = true :=
  Memory.wf_write _ _ _ (storageAddr_pointX j) (Memory.wf_write _ _ _ (storageAddr_pointY j) h)

end Sys2Proof.Machine
end

