-- ==== Sys2Proof/Laws/PerInstr.lean ====
section
/-! SUPPORT. Facts of every command as syntax, one lemma per constructor. -/

namespace Sys2Proof.Laws

/-- The command's word is selected by its row of the opcode map: `w and mask == match` (30 R82). -/
def TableRow.Statement (i : Instr) : Prop := encode i &&& rowMask i = rowMatch i

theorem TableRow.nop : TableRow.Statement .nop := by
  show encode .nop &&& rowMask .nop = rowMatch .nop
  decide

theorem TableRow.add (a b : Byte) : TableRow.Statement (.add a b) := by
  apply BitVec.eq_of_getLsbD_eq
  intro k hk
  simp only [encode, rowMask, rowMatch, BitVec.getLsbD_and, packFields_getLsbD]
  interval_cases k <;> simp

theorem TableRow.mul (a b : Byte) : TableRow.Statement (.mul a b) := by
  apply BitVec.eq_of_getLsbD_eq
  intro k hk
  simp only [encode, rowMask, rowMatch, BitVec.getLsbD_and, packFields_getLsbD]
  interval_cases k <;> simp

theorem TableRow.div (a b : Byte) : TableRow.Statement (.div a b) := by
  apply BitVec.eq_of_getLsbD_eq
  intro k hk
  simp only [encode, rowMask, rowMatch, BitVec.getLsbD_and, packFields_getLsbD]
  interval_cases k <;> simp

theorem TableRow.inv (b : Byte) : TableRow.Statement (.inv b) := by
  apply BitVec.eq_of_getLsbD_eq
  intro k hk
  simp only [encode, rowMask, rowMatch, BitVec.getLsbD_and, packFields_getLsbD]
  interval_cases k <;> simp

theorem TableRow.eval (n x : Byte) : TableRow.Statement (.eval n x) := by
  apply BitVec.eq_of_getLsbD_eq
  intro k hk
  simp only [encode, rowMask, rowMatch, BitVec.getLsbD_and, packFields_getLsbD]
  interval_cases k <;> simp

theorem TableRow.lagr (n : Byte) : TableRow.Statement (.lagr n) := by
  apply BitVec.eq_of_getLsbD_eq
  intro k hk
  simp only [encode, rowMask, rowMatch, BitVec.getLsbD_and, packFields_getLsbD]
  interval_cases k <;> simp

end Sys2Proof.Laws
end

