-- ==== Sys2Proof/Laws/Step.lean ====
section
/-! SUPPORT. Everything a step can do: one lemma for the choice of the agent, one for the step. -/

namespace Sys2Proof.Machine

/-- Whose step it is, and when (00 R12, R14). -/
theorem nextAgent_cases (s : State) :
    (nextAgent s = .engine ∧ s.busy = true ∧ s.ready = true ∧ (s.host = [] ∨ s.slack = 0)) ∨
    (nextAgent s = .init ∧ s.ready = false ∧ (s.host = [] ∨ s.slack = 0)) ∨
    (nextAgent s = .nobody ∧ s.busy = false ∧ s.host = []) ∨
    (nextAgent s = .host ∧ s.host ≠ [] ∧ (s.busy = true → s.slack ≠ 0)) := by
  unfold nextAgent State.busy
  cases hr : s.ready <;> cases hp : s.pend <;> cases hh : s.host <;>
    by_cases hz : s.slack = 0 <;> simp [hz]

/-- What a step does, by the agent that takes it. -/
theorem step_cases (s s' : State) (h : step s = .next s') :
    (nextAgent s = .host ∧ s' = hostStep s) ∨
    (nextAgent s = .init ∧ s' = initStep s) ∨
    (nextAgent s = .engine ∧ ∃ i, decode s.pcmd = .cmd i ∧
      s' = s.complete (outcomeOf i s).1 (outcomeOf i s).2) ∨
    (nextAgent s = .nobody ∧ s' = s) := by
  unfold step at h
  cases ha : nextAgent s <;> simp only [ha] at h
  · cases h; exact .inl ⟨rfl, rfl⟩
  · right; right; left
    refine ⟨rfl, ?_⟩
    cases hf : fetchCommand s <;> simp only [hf] at h
    · rw [exec_eq_complete] at h
      cases h
      exact ⟨_, hf, rfl⟩
    · cases h
  · cases h; exact .inr (.inl ⟨rfl, rfl⟩)
  · cases h; exact .inr (.inr (.inr ⟨rfl, rfl⟩))

/-- A served access changes nothing but ERR, the buffers, the pending command and its slack, and the
record of the run. -/
theorem serve_keeps (s : State) (a : BusOp) :
    (s.serve a).params = s.params ∧ (s.serve a).ready = s.ready ∧ (s.serve a).res = s.res ∧
    (s.serve a).tables = s.tables ∧ (s.serve a).host = s.host ∧ (s.serve a).tick = s.tick := by
  cases a with
  | read addr size =>
    simp only [State.serve]
    split <;> simp
  | write addr size w =>
    simp only [State.serve]
    split
    · simp
    · rename_i l _
      cases l <;> simp only [State.serveWrite, State.accept, State.reply_params, State.reply_ready,
        State.reply_res, State.reply_tables, State.reply_host, State.reply_tick] <;>
        repeat' split
      all_goals simp

end Sys2Proof.Machine
end

