-- ==== Sys2Proof/Laws/TableEval.lean ====
section
/-! SUPPORT. A form of the table construction that Lean's kernel evaluates quickly, proved equal to it. -/

namespace Sys2Proof.Machine

/-- The last k iterations of the loop of 40 R102, on lists, with e a numeral. -/
def tablesFrom (poly : BitVec 9) (gen : Byte) : Nat → Nat → List Byte → List Byte × List Byte
  | 0, _, log => (log.set 0 0x00, [])
  | k + 1, e, log =>
    forceNat e fun e =>
      let (log', exp') := tablesFrom poly gen k (gfMulRef poly (BitVec.ofNat 8 e) gen).toNat
        (log.set e (BitVec.ofNat 8 (254 - k)))
      (log', BitVec.ofNat 8 e :: exp')

theorem tablesFrom_exp (poly : BitVec 9) (gen : Byte) (k : Nat) (e : Byte) (log : List Byte) :
    (tablesFrom poly gen k e.toNat log).2 = powersFrom poly gen k e := by
  induction k generalizing e log with
  | zero => rfl
  | succ k ih => simp [tablesFrom, powersFrom, forceNat_eq, ih]

theorem tablesFrom_log (poly : BitVec 9) (gen : Byte) (k : Nat) (h : k ≤ 255) :
    (tablesFrom poly gen k (buildTo poly gen (255 - k) (by omega)).e.toNat
        (buildTo poly gen (255 - k) (by omega)).tables.log.toList).1 =
      (tableBuild poly gen).log.toList := by
  induction k with
  | zero =>
    simp only [tablesFrom, tableBuild, Vector.toList_set]
  | succ k ih =>
    rw [← ih (by omega)]
    have hs : ∀ (m : Nat) (hm : m ≤ 255) (hm' : m + 1 ≤ 255),
        (buildTo poly gen (m + 1) hm').e = gfMulRef poly (buildTo poly gen m hm).e gen ∧
        (buildTo poly gen (m + 1) hm').tables.log.toList =
          (buildTo poly gen m hm).tables.log.toList.set (buildTo poly gen m hm).e.toNat
            (BitVec.ofNat 8 m) := by
      intro m hm hm'
      simp [buildTo, Vector.toList_set]
    have e1 : 255 - k = (255 - (k + 1)) + 1 := by omega
    have e2 : 254 - k = 255 - (k + 1) := by omega
    simp only [tablesFrom, forceNat_eq, BitVec.ofNat_toNat, BitVec.setWidth_eq, e1, e2,
      (hs (255 - (k + 1)) (by omega) (by omega)).1, (hs (255 - (k + 1)) (by omega) (by omega)).2]

/-- The tables are those the lists say, if the kernel-evaluable form says so. -/
theorem tableBuild_eq_of_tablesFrom (poly : BitVec 9) (gen : Byte) (t : Tables)
    (h : tablesFrom poly gen 255 1 (List.replicate 256 0x00) = (t.log.toList, t.exp.toList)) :
    tableBuild poly gen = t := by
  have hlog := tablesFrom_log poly gen 255 (Nat.le_refl 255)
  have hexp := tablesFrom_exp poly gen 255 0x01 (List.replicate 256 0x00)
  have h1 : (1 : Nat) = (0x01 : Byte).toNat := rfl
  rw [h1] at h
  have hb : (buildTo poly gen (255 - 255) (by omega)).tables.log.toList = List.replicate 256 0x00 := by
    simp [buildTo]
  have he : (buildTo poly gen (255 - 255) (by omega)).e = 0x01 := rfl
  rw [hb, he, h] at hlog
  rw [h] at hexp
  have hexp' := tableBuild_exp_toList poly gen
  rw [← hexp] at hexp'
  cases t with
  | mk log exp =>
    have a1 : (tableBuild poly gen).log = log := Vector.toList_inj.1 hlog.symm
    have a2 : (tableBuild poly gen).exp = exp := Vector.toList_inj.1 hexp'
    rw [← a1, ← a2]

end Sys2Proof.Machine
end

