-- ==== Sys2Proof/Tests/Slice0.lean ====
section
/-! SUPPORT. The model's own tests. Expected values come from spec/95_test_vectors.md and the rules' own
examples; each test names its vector. Then a witness for the hypotheses of each statement. -/

namespace Sys2Proof.Tests

set_option Elab.async false

open Sys2Proof Sys2Proof.Machine

/-! ## The tables of the default instance (95 section 1) -/

/-- EXP[0..254], copied from 95 section 1. -/
def specExp : List Byte :=
  [0x01, 0x02, 0x04, 0x08, 0x10, 0x20, 0x40, 0x80, 0x1D, 0x3A, 0x74, 0xE8, 0xCD, 0x87, 0x13, 0x26] ++
  [0x4C, 0x98, 0x2D, 0x5A, 0xB4, 0x75, 0xEA, 0xC9, 0x8F, 0x03, 0x06, 0x0C, 0x18, 0x30, 0x60, 0xC0] ++
  [0x9D, 0x27, 0x4E, 0x9C, 0x25, 0x4A, 0x94, 0x35, 0x6A, 0xD4, 0xB5, 0x77, 0xEE, 0xC1, 0x9F, 0x23] ++
  [0x46, 0x8C, 0x05, 0x0A, 0x14, 0x28, 0x50, 0xA0, 0x5D, 0xBA, 0x69, 0xD2, 0xB9, 0x6F, 0xDE, 0xA1] ++
  [0x5F, 0xBE, 0x61, 0xC2, 0x99, 0x2F, 0x5E, 0xBC, 0x65, 0xCA, 0x89, 0x0F, 0x1E, 0x3C, 0x78, 0xF0] ++
  [0xFD, 0xE7, 0xD3, 0xBB, 0x6B, 0xD6, 0xB1, 0x7F, 0xFE, 0xE1, 0xDF, 0xA3, 0x5B, 0xB6, 0x71, 0xE2] ++
  [0xD9, 0xAF, 0x43, 0x86, 0x11, 0x22, 0x44, 0x88, 0x0D, 0x1A, 0x34, 0x68, 0xD0, 0xBD, 0x67, 0xCE] ++
  [0x81, 0x1F, 0x3E, 0x7C, 0xF8, 0xED, 0xC7, 0x93, 0x3B, 0x76, 0xEC, 0xC5, 0x97, 0x33, 0x66, 0xCC] ++
  [0x85, 0x17, 0x2E, 0x5C, 0xB8, 0x6D, 0xDA, 0xA9, 0x4F, 0x9E, 0x21, 0x42, 0x84, 0x15, 0x2A, 0x54] ++
  [0xA8, 0x4D, 0x9A, 0x29, 0x52, 0xA4, 0x55, 0xAA, 0x49, 0x92, 0x39, 0x72, 0xE4, 0xD5, 0xB7, 0x73] ++
  [0xE6, 0xD1, 0xBF, 0x63, 0xC6, 0x91, 0x3F, 0x7E, 0xFC, 0xE5, 0xD7, 0xB3, 0x7B, 0xF6, 0xF1, 0xFF] ++
  [0xE3, 0xDB, 0xAB, 0x4B, 0x96, 0x31, 0x62, 0xC4, 0x95, 0x37, 0x6E, 0xDC, 0xA5, 0x57, 0xAE, 0x41] ++
  [0x82, 0x19, 0x32, 0x64, 0xC8, 0x8D, 0x07, 0x0E, 0x1C, 0x38, 0x70, 0xE0, 0xDD, 0xA7, 0x53, 0xA6] ++
  [0x51, 0xA2, 0x59, 0xB2, 0x79, 0xF2, 0xF9, 0xEF, 0xC3, 0x9B, 0x2B, 0x56, 0xAC, 0x45, 0x8A, 0x09] ++
  [0x12, 0x24, 0x48, 0x90, 0x3D, 0x7A, 0xF4, 0xF5, 0xF7, 0xF3, 0xFB, 0xEB, 0xCB, 0x8B, 0x0B, 0x16] ++
  [0x2C, 0x58, 0xB0, 0x7D, 0xFA, 0xE9, 0xCF, 0x83, 0x1B, 0x36, 0x6C, 0xD8, 0xAD, 0x47, 0x8E]

/-- LOG[0..255], copied from 95 section 1. -/
def specLog : List Byte :=
  [0x00, 0x00, 0x01, 0x19, 0x02, 0x32, 0x1A, 0xC6, 0x03, 0xDF, 0x33, 0xEE, 0x1B, 0x68, 0xC7, 0x4B] ++
  [0x04, 0x64, 0xE0, 0x0E, 0x34, 0x8D, 0xEF, 0x81, 0x1C, 0xC1, 0x69, 0xF8, 0xC8, 0x08, 0x4C, 0x71] ++
  [0x05, 0x8A, 0x65, 0x2F, 0xE1, 0x24, 0x0F, 0x21, 0x35, 0x93, 0x8E, 0xDA, 0xF0, 0x12, 0x82, 0x45] ++
  [0x1D, 0xB5, 0xC2, 0x7D, 0x6A, 0x27, 0xF9, 0xB9, 0xC9, 0x9A, 0x09, 0x78, 0x4D, 0xE4, 0x72, 0xA6] ++
  [0x06, 0xBF, 0x8B, 0x62, 0x66, 0xDD, 0x30, 0xFD, 0xE2, 0x98, 0x25, 0xB3, 0x10, 0x91, 0x22, 0x88] ++
  [0x36, 0xD0, 0x94, 0xCE, 0x8F, 0x96, 0xDB, 0xBD, 0xF1, 0xD2, 0x13, 0x5C, 0x83, 0x38, 0x46, 0x40] ++
  [0x1E, 0x42, 0xB6, 0xA3, 0xC3, 0x48, 0x7E, 0x6E, 0x6B, 0x3A, 0x28, 0x54, 0xFA, 0x85, 0xBA, 0x3D] ++
  [0xCA, 0x5E, 0x9B, 0x9F, 0x0A, 0x15, 0x79, 0x2B, 0x4E, 0xD4, 0xE5, 0xAC, 0x73, 0xF3, 0xA7, 0x57] ++
  [0x07, 0x70, 0xC0, 0xF7, 0x8C, 0x80, 0x63, 0x0D, 0x67, 0x4A, 0xDE, 0xED, 0x31, 0xC5, 0xFE, 0x18] ++
  [0xE3, 0xA5, 0x99, 0x77, 0x26, 0xB8, 0xB4, 0x7C, 0x11, 0x44, 0x92, 0xD9, 0x23, 0x20, 0x89, 0x2E] ++
  [0x37, 0x3F, 0xD1, 0x5B, 0x95, 0xBC, 0xCF, 0xCD, 0x90, 0x87, 0x97, 0xB2, 0xDC, 0xFC, 0xBE, 0x61] ++
  [0xF2, 0x56, 0xD3, 0xAB, 0x14, 0x2A, 0x5D, 0x9E, 0x84, 0x3C, 0x39, 0x53, 0x47, 0x6D, 0x41, 0xA2] ++
  [0x1F, 0x2D, 0x43, 0xD8, 0xB7, 0x7B, 0xA4, 0x76, 0xC4, 0x17, 0x49, 0xEC, 0x7F, 0x0C, 0x6F, 0xF6] ++
  [0x6C, 0xA1, 0x3B, 0x52, 0x29, 0x9D, 0x55, 0xAA, 0xFB, 0x60, 0x86, 0xB1, 0xBB, 0xCC, 0x3E, 0x5A] ++
  [0xCB, 0x59, 0x5F, 0xB0, 0x9C, 0xA9, 0xA0, 0x51, 0x0B, 0xF5, 0x16, 0xEB, 0x7A, 0x75, 0x2C, 0xD7] ++
  [0x4F, 0xAE, 0xD5, 0xE9, 0xE6, 0xE7, 0xAD, 0xE8, 0x74, 0xD6, 0xF4, 0xEA, 0xA8, 0x50, 0x58, 0xAF]

/-- The tables of 95 section 1. -/
def specTables : Tables where
  log := ⟨specLog.toArray, by decide +kernel⟩
  exp := ⟨specExp.toArray, by decide +kernel⟩

/-- 40 R102 builds the tables 95 section 1 lists. -/
theorem test_tables_of_default_instance : Params.default.tables = specTables := by
  apply tableBuild_eq_of_tablesFrom
  decide +kernel

/-! ## Small states -/

/-- Idle after initialisation, default instance: READY = 1, ERR = 0. -/
def idle : State := { State.reset with ready := true, tables := specTables }

/-- Idle with COEF[0..2] = 42, 11, 23 (95 section 4). -/
def idleCoefs : State := ((idle.writeCoef 0 0x42).writeCoef 1 0x11).writeCoef 2 0x23

/-- Idle with two points. -/
def idlePoints (p q : Point) : State := (idle.writePoint 0 p).writePoint 1 q

/-- The command is pending and the engine's turn has come. -/
def pendingOf (i : Instr) (s : State) : State := { s with pend := true, pcmd := encode i }

/-- Idle with one access for the host to make. -/
def hostWith (a : BusOp) (s : State) : State := { s with host := [.access a] }

/-- The next state, if there is one. -/
def next? (o : Host.Outcome State Fault Refusal) : Option State :=
  match o with
  | .next s => some s
  | .fault _ => none
  | .refused _ => none

/-- RES, DZ and PEND after a command completes. -/
def resDzPend (i : Instr) (s : State) : Option (Byte × Bool × Bool) :=
  (next? (exec i s)).map fun t => (t.res, t.err.dz, t.pend)

/-- The last reply to an access. -/
def lastReply (s : State) (a : BusOp) : Option Reply := (s.serve a).replies.getLast?

/-! ## Decoding: each word written out field by field from 30 R82 -/

theorem test_decode_nop : decode 0b00000000_00000000_00000000_00000000 = .cmd .nop := by decide
theorem test_decode_add : decode 0b00000001_00000000_10000001_01000010 = .cmd (.add 0x81 0x42) := by decide
theorem test_decode_mul : decode 0b00000010_00000000_11110000_00001111 = .cmd (.mul 0xF0 0x0F) := by decide
theorem test_decode_div : decode 0b00000011_00000000_00000001_10000000 = .cmd (.div 0x01 0x80) := by decide
theorem test_decode_inv : decode 0b00000100_00000000_00000000_10010110 = .cmd (.inv 0x96) := by decide
theorem test_decode_eval : decode 0b00010000_11111111_00000000_00000001 = .cmd (.eval 0xFF 0x01) := by decide
theorem test_decode_lagr : decode 0b00100000_10000000_00000000_00000000 = .cmd (.lagr 0x80) := by decide

/-- V-C1 to V-C8. -/
theorem test_decode_illegal :
    decode 0x7F000000 = .illegal .unassignedOpcode ∧ decode 0x05000000 = .illegal .unassignedOpcode ∧
    decode 0x01010000 = .illegal .reservedField ∧ decode 0x04000100 = .illegal .reservedField ∧
    decode 0x10010100 = .illegal .reservedField ∧ decode 0x20020001 = .illegal .reservedField ∧
    decode 0x00000001 = .illegal .reservedField := by decide

/-- The opcode table's numbering: bit 0 is the word's least significant bit. -/
theorem test_decodeTableWord :
    decodeTableWord 32 0x10030002 = some (.eval 3 2) ∧ decodeTableWord 32 0x05000000 = none := by decide

/-- A placed command is run by the very next step. -/
theorem test_withFetchWord_runs_command :
    step (State.reset.withFetchWord 32 0x010053CA) =
      exec (.add 0x53 0xCA) (State.reset.withFetchWord 32 0x010053CA) := rfl

/-! ## Well-formedness -/

/-- An operand over 8 bits, in each operand position (30 R93). -/
theorem test_asm_operand_too_wide :
    (AsmLine.add 256 0).wellFormed = false ∧ (AsmLine.eval 3 0x100).wellFormed = false ∧
    (AsmLine.sqr 999).wellFormed = false ∧ (AsmLine.add 255 0).wellFormed = true := by decide

/-- POLY without bit 8; a GEN whose powers repeat at once (00 R7). -/
theorem test_configuration_refused :
    validPair 0x01D 0x02 = false ∧ validPair 0x11D 0x01 = false := by
  rw [validPair_eq, validPair_eq]
  decide +kernel

/-- A buffer byte at an address that holds none, and two bytes out of order. -/
theorem test_memory_ill_formed :
    Memory.wf [(0x0401, 0x11)] = false ∧ Memory.wf [(0x0404, 0x11), (0x0400, 0x22)] = false ∧
    Memory.wf [(0x0400, 0x22), (0x0801, 0x11)] = true := by decide

/-! ## Commands -/

/-- V-A2, V-A5. -/
theorem test_add : resDzPend (.add 0x53 0xCA) idle = some (0x99, false, false) ∧
    resDzPend (.add 0x00 0x68) idle = some (0x68, false, false) := by decide +kernel

/-- V-M4 (reduction), V-M8 (the exponents wrap modulo 255). -/
theorem test_mul : resDzPend (.mul 0x02 0x80) idle = some (0x1D, false, false) ∧
    resDzPend (.mul 0xFF 0xFF) idle = some (0xE2, false, false) := by decide +kernel

/-- V-M1, V-M2: a zero operand. -/
theorem test_mul_zero : resDzPend (.mul 0x00 0x57) idle = some (0x00, false, false) ∧
    resDzPend (.mul 0x57 0x00) idle = some (0x00, false, false) := by decide +kernel

/-- V-D8, V-D9: the operands are not swapped. -/
theorem test_div : resDzPend (.div 0x53 0xCA) idle = some (0x6D, false, false) ∧
    resDzPend (.div 0xCA 0x53) idle = some (0xEC, false, false) := by decide +kernel

/-- V-D1, V-D2, V-D3. -/
theorem test_div_by_zero : resDzPend (.div 0x05 0x00) idle = some (0x00, true, false) ∧
    resDzPend (.div 0x00 0x00) idle = some (0x00, true, false) ∧
    resDzPend (.div 0x00 0x07) idle = some (0x00, false, false) := by decide +kernel

/-- V-I5, V-I1. -/
theorem test_inv : resDzPend (.inv 0x53) idle = some (0x8C, false, false) ∧
    resDzPend (.inv 0x00) idle = some (0x00, true, false) := by decide +kernel

/-- V-N1. -/
theorem test_nop : resDzPend .nop { idle with res := 0x99 } = some (0x99, false, false) := by
  decide +kernel

/-- V-E5, V-E7. -/
theorem test_eval : resDzPend (.eval 3 0x02) idleCoefs = some (0xEC, false, false) ∧
    resDzPend (.eval 3 0xFF) idleCoefs = some (0xDC, false, false) := by decide +kernel

/-- V-E11: an entry never written faults the run; the command completes. -/
theorem test_eval_unwritten :
    (next? (exec (.eval 3 0x02) ((idle.writeCoef 0 0x42).writeCoef 1 0x11))).map
      (fun t => (t.faults, t.pend)) = some ([.coefNoValue], false) := by decide +kernel

/-- V-H5: shares 3 and 1 of byte 0. V-L3: duplicates. -/
theorem test_lagr :
    resDzPend (.lagr 2) (idlePoints ⟨0x03, 0x9C⟩ ⟨0x01, 0xCF⟩) = some (0x68, false, false) ∧
    resDzPend (.lagr 2) (idlePoints ⟨0x01, 0x10⟩ ⟨0x01, 0x20⟩) = some (0x00, true, false) := by
  decide +kernel

/-- V-L4: the value left with duplicates; the term of point (02, 20) alone. -/
theorem test_lagr_duplicates_value :
    resDzPend (.lagr 3) ((idlePoints ⟨0x01, 0x10⟩ ⟨0x02, 0x20⟩).writePoint 2 ⟨0x01, 0x30⟩) =
      some (0x59, true, false) := by decide +kernel

/-! ## The bus -/

/-- V-B1, V-B2, V-B3, V-B4. -/
theorem test_bus_registers :
    lastReply idle (.read 0x0000 .four) = some (.data 0x4B534301) ∧
    lastReply idle (.read 0x0014 .four) = some (.data 0x0002011D) ∧
    lastReply idle (.read 0x0004 .four) = some (.data 0x00000001) ∧
    lastReply State.reset (.read 0x0004 .four) = some (.data 0x00000002) := by decide +kernel

/-- V-B5, V-B6, V-B9, V-B10, V-B11. -/
theorem test_bus_windows :
    lastReply idle (.read 0x114C .four) = some (.data 0x000000CE) ∧
    lastReply idle (.read 0x1464 .four) = some (.data 0x00000003) ∧
    lastReply idle (.read 0x17FC .four) = some (.data 0x00000000) ∧
    lastReply idle (.read 0x13FC .four) = some (.data 0x000000AF) ∧
    lastReply { idle with ready := false } (.read 0x114C .four) = some (.data 0x00000000) := by
  decide +kernel

/-- V-B13, V-B14. -/
theorem test_bus_buffers :
    lastReply (idle.serve (.write 0x0400 .four 0x68)) (.read 0x0400 .four) = some (.data 0) ∧
    lastReply (idle.serve (.write 0x0800 .four 0xFFFF0155)) (.read 0x0800 .four) =
      some (.data 0x00000155) := by decide +kernel

/-- V-B15 to V-B19. -/
theorem test_bus_errors :
    lastReply idle (.read 0x0018 .four) = some (.readBusErr 0) ∧
    lastReply idle (.read 0x0402 .four) = some (.readBusErr 0) ∧
    lastReply idle (.write 0x0C00 .four 1) = some .writeBusErr ∧
    lastReply idle (.read 0x1800 .four) = some (.readBusErr 0) ∧
    lastReply idle (.read 0x0000 .one) = some (.readBusErr 0) := by decide +kernel

/-- V-B20, V-B21, V-B22. -/
theorem test_bus_writes :
    (State.serve { idle with res := 0x99 } (.write 0x0010 .four 0x12345678)).res = 0x99 ∧
    (State.serve { idle with res := 0x99 } (.write 0x0010 .four 0x12345678)).err.toWord = 0 ∧
    (State.serve { idle with err := ⟨true, true, true⟩ } (.write 0x0008 .four 2)).err =
      ⟨true, false, true⟩ ∧
    (State.reset.serve (.write 0x0400 .four 0x11)).err = ⟨false, false, true⟩ ∧
    (State.reset.serve (.write 0x0400 .four 0x11)).mem = [] := by decide +kernel

/-- V-C1, V-C9. -/
theorem test_cmd_illegal_and_busy :
    (idle.serve (.write 0x000C .four 0x7F000000)).err = ⟨false, true, false⟩ ∧
    (idle.serve (.write 0x000C .four 0x7F000000)).pend = false ∧
    ((pendingOf .nop idle).serve (.write 0x000C .four 0x7F000000)).err = ⟨false, false, true⟩ := by
  decide +kernel

/-- 95 P4b: with the completion after the second write that write is dropped (a); with the completion
before it both commands run (b). -/
theorem test_P4b_first_step :
    (next? (step { pendingOf (.add 1 2) idle with host := [scriptC (.add 3 4)], slack := 1 })).map
      (fun t => (t.err.ovr, t.pend, t.res)) = some (true, true, 0x00) ∧
    (next? (step { pendingOf (.add 1 2) idle with host := [scriptC (.add 3 4)], slack := 0 })).map
      (fun t => (t.err.ovr, t.pend, t.res)) = some (false, false, 0x03) := by decide +kernel

/-! ## The assembler -/

/-- 95 P1 and 30 R93: text, upper case, an operand out of range. -/
theorem test_assembler_text :
    (parseLine ['m', 'u', 'l', ' ', '0', 'x', '5', '3', ',', ' ', '0', 'x', 'C', 'A']).bind assemble =
      some (.mul 0x53 0xCA) ∧
    (parseLine ['L', 'A', 'G', 'R', ' ', '2']).bind assemble = some (.lagr 2) ∧
    (parseLine ['i', 'n', 'v', ' ', '2', '5', '6']).bind assemble = none := by decide

/-- 95 V-A1, V-A5, V-M8: clr, mov 0x68, sqr 0xFF. -/
theorem test_assembler_pseudo :
    (assemble .clr).map encode = some 0x01000000 ∧ (assemble (.mov 0x68)).map encode = some 0x01000068 ∧
    (assemble (.sqr 0xFF)).map encode = some 0x0200FFFF := by decide

/-! ## Witnesses: for each statement's hypotheses, a state and operands that meet them -/

theorem witness_inv_reset : Inv State.reset := by
  constructor <;> simp [State.reset, State.resetWith, Memory.wf, Memory.rising, Memory.read]

theorem witness_inv_idle : Inv idle where
  memWf := by decide
  pointsPaired := fun _ _ => rfl
  tablesBuilt := fun _ => test_tables_of_default_instance.symm
  pendReady := fun h => by cases h
  pendLegal := fun h => by cases h

theorem witness_inv_pending : Inv (pendingOf (.div 0x05 0x00) idle) where
  memWf := by decide
  pointsPaired := fun _ _ => rfl
  tablesBuilt := fun _ => test_tables_of_default_instance.symm
  pendReady := fun _ => rfl
  pendLegal := fun _ => by decide

theorem witness_EncodeOfDecode : decode 0x01000102 = .cmd (.add 0x01 0x02) := by decide

theorem witness_MatchMaskSelectsRow :
    (0x10FF00FF : Word) &&& rowMask (.eval 0 0) = rowMatch (.eval 0 0) := by decide

theorem witness_UnassignedOpcodesIllegal :
    [0x05000000, 0x0F000000, 0x11000000, 0x1F000000, 0x21000000, (0xFF000000 : Word)].all fun w =>
      decide (opField w ∉ [0x00, 0x01, 0x02, 0x03, 0x04, 0x10, 0x20]) := by decide +kernel

theorem witness_ReservedFieldsIllegal :
    (opField 0x00000001 = 0x00 ∧ bField 0x00000001 ≠ 0) ∧
    (opField 0x03FF0000 = 0x03 ∧ nField 0x03FF0000 ≠ 0) ∧
    (opField 0x04000100 = 0x04 ∧ aField 0x04000100 ≠ 0) ∧
    (opField 0x10000100 = 0x10 ∧ aField 0x10000100 ≠ 0) ∧
    (opField 0x20000001 = 0x20 ∧ bField 0x20000001 ≠ 0) := by decide

theorem witness_AssemblerEncodesLines : (AsmLine.mov 256).wellFormed = false := by decide

theorem witness_InvCompletes : Inv idle ∧ idle.ready = true ∧ (0x53 : Byte) ≠ 0 :=
  ⟨witness_inv_idle, rfl, by decide⟩

theorem witness_EvalCompletes :
    ∀ k, k < (3 : Byte).toNat → idleCoefs.coefEntry k = some ([0x42, 0x11, 0x23].getD k 0) := by
  decide +kernel

theorem witness_EvalOfUnwrittenEntryFaultsRun :
    ∃ k, k < (0xFF : Byte).toNat ∧ idleCoefs.coefEntry k = none := ⟨254, by decide, by decide +kernel⟩

theorem witness_LagrCompletes :
    ∀ j, j < (2 : Byte).toNat → (idlePoints ⟨3, 0x9C⟩ ⟨1, 0xCF⟩).pointEntry j =
      some ([⟨3, 0x9C⟩, ⟨1, 0xCF⟩].getD j ⟨0, 0⟩) := by decide +kernel

theorem witness_LagrOfUnwrittenEntryFaultsRun :
    ∃ j, j < (3 : Byte).toNat ∧ (idlePoints ⟨3, 0x9C⟩ ⟨1, 0xCF⟩).pointEntry j = none :=
  ⟨2, by decide, by decide +kernel⟩

theorem witness_CommandFrame : ∃ t, exec (.div 0x05 0x00) idleCoefs = .next t := ⟨_, rfl⟩

theorem witness_CommandReadsOnlyItsOperands :
    idleCoefs.tables = (idleCoefs.writeCoef 3 0x77).tables ∧
    (∀ k, k < 3 → idleCoefs.coefOperand k = (idleCoefs.writeCoef 3 0x77).coefOperand k) := by
  refine ⟨rfl, fun k hk => ?_⟩
  have : k = 0 ∨ k = 1 ∨ k = 2 := by omega
  rcases this with rfl | rfl | rfl <;> rfl

theorem witness_NamedConfigurations : (0x0FF : BitVec 9).getLsbD 8 = false := by decide

theorem witness_TablesArePowersOfGen : (0x100 : BitVec 9).getLsbD 8 = true ∧ 253 + 1 < 255 := by decide

theorem witness_TableLaws : (254 < 255) ∧ (0xFF : Byte) ≠ 0 := by decide

/-- Two points of the line y = 42 + 11·x, at x = 0 and x = 1. -/
def linePoints (j : Nat) : Point := if j = 0 then ⟨0x00, 0x42⟩ else ⟨0x01, 0x53⟩

theorem witness_LagrangeOrderIndependent :
    ∀ j : Fin 2, linePoints (1 - j.val) = linePoints (Equiv.swap (0 : Fin 2) 1 j).val := by decide

theorem witness_LagrangeRecoversConstantTerm :
    DistinctX linePoints 2 ∧
    ∀ j, j < 2 → (linePoints j).y =
      horner Params.default.tables (fun k => [0x42, 0x11].getD k 0) (linePoints j).x 2 := by
  rw [test_tables_of_default_instance]
  have h : ∀ l, l < 2 → OccursOnce linePoints 2 l := by decide
  exact ⟨h, by decide +kernel⟩

theorem witness_LagrangeOfDuplicates :
    ∃ p : Nat → Point, p 0 = ⟨0x01, 0x10⟩ ∧ p 1 = ⟨0x01, 0x20⟩ ∧ (p 1).x = (p 0).x :=
  ⟨fun j => if j = 0 then ⟨0x01, 0x10⟩ else ⟨0x01, 0x20⟩, rfl, rfl, rfl⟩

theorem witness_LagrangeOfDuplicates_completes :
    0 < (2 : Byte).toNat ∧ 1 < (2 : Byte).toNat ∧
    ((idlePoints ⟨0x01, 0x10⟩ ⟨0x01, 0x20⟩).pointOperand 1).x =
      ((idlePoints ⟨0x01, 0x10⟩ ⟨0x01, 0x20⟩).pointOperand 0).x := ⟨by decide, by decide, rfl⟩

theorem witness_EvalCornerCases : 1 ≤ (0xFF : Byte).toNat ∧ 1 ≤ (0x01 : Byte).toNat := by decide

theorem witness_LagrangeOfZeroPoint : (linePoints 0).x = 0 ∧ DistinctX linePoints 2 := by
  have h : ∀ l, l < 2 → OccursOnce linePoints 2 l := by decide
  exact ⟨rfl, h⟩

/-- Each way an access gets BUSERR, at the ends of each reserved range. -/
theorem witness_BusErrorHasNoEffect :
    ([(0x0001 : Addr), 0x1FFF].all fun a => decide (a.toNat % 4 ≠ 0)) ∧
    ([(0x0018 : Addr), 0x03FC].all fun a => decide (0x0018 ≤ a.toNat ∧ a.toNat ≤ 0x03FF ∧ target a .four = none)) ∧
    ([(0x0C00 : Addr), 0x0FFC].all fun a => decide (0x0C00 ≤ a.toNat ∧ a.toNat ≤ 0x0FFF ∧ target a .four = none)) ∧
    ([(0x1800 : Addr), 0x1FFC].all fun a => decide (0x1800 ≤ a.toNat ∧ a.toNat ≤ 0x1FFF ∧ target a .four = none)) ∧
    ([(0x0014 : Addr), 0x0400, 0x0BFC, 0x1000, 0x17FC].all fun a => decide (target a .four ≠ none)) := by decide +kernel

/-- The ends of each range of the map, and what each address reaches. -/
theorem witness_map_ranges :
    target 0x0400 .four = some (.coef 0x00) ∧ target 0x07FC .four = some (.coef 0xFF) ∧
    target 0x0800 .four = some (.point 0x00) ∧ target 0x0BFC .four = some (.point 0xFF) ∧
    target 0x1000 .four = some (.log 0x00) ∧ target 0x13FC .four = some (.log 0xFF) ∧
    target 0x1400 .four = some (.exp 0x00) ∧ target 0x17FC .four = some (.exp 0xFF) := by decide +kernel

theorem witness_ReadOnlyAndWriteOnly :
    [(0x0000 : Addr), 0x0004, 0x0010, 0x0014, 0x1000, 0x17FC].all fun a => decide
      (a.toNat % 4 = 0 ∧ (a = 0x0000 ∨ a = 0x0004 ∨ a = 0x0010 ∨ a = 0x0014 ∨
        (0x1000 ≤ a.toNat ∧ a.toNat ≤ 0x17FC))) := by decide +kernel

theorem witness_ReadsHaveNoSideEffect :
    [(0x0008 : Addr), 0x0400, 0x0BFC].all fun a => decide
      (a = 0x0008 ∨ (0x0400 ≤ a.toNat ∧ a.toNat < 0x0C00)) := by decide +kernel

/-- CoefAccess, PointAccess, CommandAcceptance, AccessPriority: an idle and a busy state, an entry that
holds a value and one that holds none, a legal word and an illegal one. -/
theorem witness_idle_and_busy :
    idle.busy = false ∧ State.reset.busy = true ∧ (pendingOf .nop idle).busy = true ∧
    (idlePoints ⟨3, 0x9C⟩ ⟨1, 0xCF⟩).pointEntry 1 = some ⟨1, 0xCF⟩ ∧ idle.pointEntry 0xFF = none ∧
    decode 0x20FF0000 = .cmd (.lagr 0xFF) ∧ decode 0x7F000000 = .illegal .unassignedOpcode ∧
    target 0x0401 .four = none := by decide +kernel

theorem witness_BusyDropsWrites :
    State.reset.busy = true ∧
    [(0x000C : Addr), 0x0400, 0x0BFC].all fun a => decide (a.toNat % 4 = 0 ∧
      (a = 0x000C ∨ (0x0400 ≤ a.toNat ∧ a.toNat ≤ 0x0BFC))) := by decide +kernel

theorem witness_StepRunsPendingCommand :
    (pendingOf (.lagr 0xFF) idle).ready = true ∧ (pendingOf (.lagr 0xFF) idle).pend = true ∧
    (pendingOf (.lagr 0xFF) idle).slack = 0 ∧
    decode (pendingOf (.lagr 0xFF) idle).pcmd = .cmd (.lagr 0xFF) := by decide +kernel

theorem witness_StepServesHostAccess :
    (hostWith (.read 0x0010 .four) idle).host = [.access (.read 0x0010 .four)] ∧
    ((hostWith (.read 0x0010 .four) idle).busy = true → (hostWith (.read 0x0010 .four) idle).slack ≠ 0) ∧
    (State.launchWith Params.default [.wait] 1).host = [.wait] ∧
    (State.launchWith Params.default [.wait] 1).slack ≠ 0 := by decide +kernel

theorem witness_StepBuildsTables : State.reset.ready = false ∧ State.reset.host = [] ∧
    State.reset.pend = false := ⟨rfl, rfl, rfl⟩

theorem witness_EndedRunWaits : idle.host = [] ∧ idle.busy = false := ⟨rfl, rfl⟩

theorem witness_StepKeepsInvariant :
    Inv (pendingOf (.div 0x05 0x00) idle) ∧ ∃ t, step (pendingOf (.div 0x05 0x00) idle) = .next t :=
  ⟨witness_inv_pending, _, rfl⟩

theorem witness_ReadyAndTablesPersist :
    (hostWith (.write 0x1000 .four 0) idle).ready = true ∧
    ∃ t, step (hostWith (.write 0x1000 .four 0) idle) = .next t := ⟨rfl, _, rfl⟩

theorem witness_BusyEnds : Inv (pendingOf (.div 0x05 0x00) idle) ∧
    (pendingOf (.div 0x05 0x00) idle).busy = true := ⟨witness_inv_pending, rfl⟩

theorem witness_TimingIgnoresData :
    Inv idle ∧ Inv { idle with res := 0x55, err := ⟨true, true, true⟩ } ∧
    idle.timing = State.timing { idle with res := 0x55, err := ⟨true, true, true⟩ } :=
  ⟨witness_inv_idle, ⟨witness_inv_idle.memWf, witness_inv_idle.pointsPaired,
    witness_inv_idle.tablesBuilt, witness_inv_idle.pendReady, witness_inv_idle.pendLegal⟩, rfl⟩

theorem witness_PendingInputsAreStable :
    ∃ t, step { hostWith (.write 0x0400 .four 0x11) (pendingOf (.eval 1 2) idle) with slack := 1 } =
      .next t ∧ t.pend = true := ⟨_, rfl, by decide +kernel⟩

theorem witness_ResChangesOnlyAtCompletion :
    ∃ t, step (pendingOf (.add 1 2) idle) = .next t ∧ t.res ≠ (pendingOf (.add 1 2) idle).res :=
  ⟨_, rfl, by decide +kernel⟩

theorem witness_ErrBitsAreSticky :
    ∃ t, step (hostWith (.write 0x0008 .four 1) { idle with err := ⟨true, true, true⟩ }) = .next t ∧
      t.err.get .dz = false ∧ t.err.get .ill = true := ⟨_, rfl, by decide +kernel⟩

theorem witness_ErrBitsSetOnlyByTheirEvents :
    (∃ t, step (pendingOf (.div 0x05 0x00) idle) = .next t ∧ t.err.dz = true) ∧
    (∃ t, step (hostWith (.write 0x000C .four 0x7F000000) idle) = .next t ∧ t.err.ill = true) ∧
    (∃ t, step (State.launchWith Params.default [scriptW 0x0BFC 0] 1) = .next t ∧ t.err.ovr = true) :=
  ⟨⟨_, rfl, by decide +kernel⟩, ⟨_, rfl, by decide +kernel⟩, ⟨_, rfl, by decide +kernel⟩⟩

theorem witness_RunFaultsAreRecorded :
    ∃ t, step (hostWith (.read 0x0018 .four) idle) = .next t ∧ t.replies = idle.replies ++ [.readBusErr 0] :=
  ⟨_, rfl, by decide +kernel⟩

theorem witness_CoefHiddenFromHost :
    SameButCoef idleCoefs (idleCoefs.writeCoef 0 0x99) ∧
    (∃ t, step { idleCoefs with host := [scriptR 0x0400] } = .next t) :=
  ⟨⟨rfl, fun j _ => ⟨Memory.read_write_ne _ _ _ _ (by unfold pointAddr coefAddr; omega),
    Memory.read_write_ne _ _ _ _ (by unfold pointAddr coefAddr; omega)⟩⟩, _, rfl⟩

end Sys2Proof.Tests
end

section
/-! SUPPORT. The address map, range by range (20 R52-R55), and what an access does once the row it
reaches is known. -/

namespace Sys2Proof.Machine

/-! Which row of the map an address belongs to -/

theorem locate_eq_reserved_iff (addr : Addr) :
    locate addr = .reserved ↔
      (addr.toNat < 0x0400 ∧ addr.toNat ∉ [0x0000, 0x0004, 0x0008, 0x000C, 0x0010, 0x0014]) ∨
      (0x0C00 ≤ addr.toNat ∧ addr.toNat < 0x1000) ∨ 0x1800 ≤ addr.toNat := by
  simp only [locate, List.mem_cons, List.not_mem_nil, or_false]
  split_ifs <;> simp <;> omega

theorem locate_eq_coef {addr : Addr} (lo : 0x0400 ≤ addr.toNat) (hi : addr.toNat < 0x0800) :
    locate addr = .coef (addr.extractLsb' 2 8) := by
  simp (disch := omega) only [locate, if_neg, if_pos]

theorem locate_eq_log {addr : Addr} (lo : 0x1000 ≤ addr.toNat) (hi : addr.toNat < 0x1400) :
    locate addr = .log (addr.extractLsb' 2 8) := by
  simp (disch := omega) only [locate, if_neg, if_pos]

theorem locate_eq_exp {addr : Addr} (lo : 0x1400 ≤ addr.toNat) (hi : addr.toNat < 0x1800) :
    locate addr = .exp (addr.extractLsb' 2 8) := by
  simp (disch := omega) only [locate, if_neg, if_pos]

/-! Which access is served (20 R52, R55) -/

theorem aligned_iff (addr : Addr) : addr.extractLsb' 0 2 = 0 ↔ addr.toNat % 4 = 0 := by
  simp [← BitVec.toNat_inj, BitVec.extractLsb'_toNat]

theorem target_eq_none_iff (addr : Addr) (size : Size) :
    target addr size = none ↔ addr.toNat % 4 ≠ 0 ∨ size ≠ .four ∨ locate addr = .reserved := by
  simp only [target, aligned_iff]
  split_ifs with h
  · cases locate addr <;> simp [h]
  · simp only [true_iff]
    tauto

theorem target_of_aligned {addr : Addr} {l : Loc} (ha : addr.toNat % 4 = 0) (hl : locate addr = l)
    (hr : l ≠ .reserved) : target addr .four = some l := by
  unfold target
  rw [if_pos ⟨rfl, (aligned_iff addr).mpr ha⟩, hl]
  cases l <;> trivial

/-! Word `i` of a window of 256 words (20 R54) -/

theorem windowAddr_toNat {base : Nat} (hi : base ≤ 0x1C00) (i : Byte) :
    (BitVec.ofNat 13 (base + 4 * i.toNat)).toNat = base + 4 * i.toNat := by
  rw [BitVec.toNat_ofNat]
  omega

theorem windowAddr_index {base : Nat} (hi : base ≤ 0x1C00) (hb : base % 0x0400 = 0) (i : Byte) :
    (BitVec.ofNat 13 (base + 4 * i.toNat)).extractLsb' 2 8 = i := by
  rw [← BitVec.toNat_inj, BitVec.extractLsb'_toNat, windowAddr_toNat hi, Nat.shiftRight_eq_div_pow]
  omega

theorem target_log (v : Byte) :
    target (BitVec.ofNat 13 (0x1000 + 4 * v.toNat)) .four = some (.log v) := by
  have ht := windowAddr_toNat (base := 0x1000) (by decide) v
  refine target_of_aligned (by omega) ?_ nofun
  rw [locate_eq_log (by omega) (by omega), windowAddr_index (by decide) (by decide)]

theorem target_exp (i : Byte) :
    target (BitVec.ofNat 13 (0x1400 + 4 * i.toNat)) .four = some (.exp i) := by
  have ht := windowAddr_toNat (base := 0x1400) (by decide) i
  refine target_of_aligned (by omega) ?_ nofun
  rw [locate_eq_exp (by omega) (by omega), windowAddr_index (by decide) (by decide)]

/-! An access whose row is known -/

theorem serve_read_of_target_none (s : State) {addr : Addr} {size : Size}
    (h : target addr size = none) :
    s.serve (.read addr size) = (s.record .busErr).reply (.readBusErr 0x00000000) := by
  simp [State.serve, h]

theorem serve_write_of_target_none (s : State) {addr : Addr} {size : Size} (w : Word)
    (h : target addr size = none) :
    s.serve (.write addr size w) = (s.record .busErr).reply .writeBusErr := by
  simp [State.serve, h]

/-- 20 R57: outside POINT a served read only sends its data. -/
theorem serve_read_of_target (s : State) {addr : Addr} {size : Size} {l : Loc}
    (h : target addr size = some l) (hf : s.readFaults l = []) :
    s.serve (.read addr size) = s.reply (.data (s.readWord l)) := by
  simp [State.serve, State.serveRead, State.reply, h, hf]

theorem serve_write_of_target (s : State) {addr : Addr} {size : Size} {l : Loc} (w : Word)
    (h : target addr size = some l) :
    s.serve (.write addr size w) = (s.serveWrite l w).reply .ok := by
  simp [State.serve, h]

/-- 20 R58: the read-only places are rows of the map, and a served write leaves them all alone. -/
theorem target_readOnly {addr : Addr} (ha : addr.toNat % 4 = 0)
    (hrow : addr = 0x0000 ∨ addr = 0x0004 ∨ addr = 0x0010 ∨ addr = 0x0014 ∨
      (0x1000 ≤ addr.toNat ∧ addr.toNat ≤ 0x17FC)) :
    ∃ l, target addr .four = some l ∧ ∀ (s : State) (w : Word), s.serveWrite l w = s := by
  obtain rfl | rfl | rfl | rfl | ⟨lo, hi⟩ := hrow
  · exact ⟨.id, by decide, fun _ _ => rfl⟩
  · exact ⟨.status, by decide, fun _ _ => rfl⟩
  · exact ⟨.res, by decide, fun _ _ => rfl⟩
  · exact ⟨.param, by decide, fun _ _ => rfl⟩
  · by_cases hlog : addr.toNat < 0x1400
    · exact ⟨_, target_of_aligned ha (locate_eq_log lo hlog) nofun, fun _ _ => rfl⟩
    · exact ⟨_, target_of_aligned ha (locate_eq_exp (by omega) (by omega)) nofun, fun _ _ => rfl⟩

/-- 20 R63, R64: what word `i` of the EXP window reads as, with the 0 at index 255 as a case of its own. -/
theorem readWord_exp (s : State) (i : Byte) :
    s.readWord (.exp i) = if h : i.toNat < 255 then
      (if s.ready then s.tables.exp[i.toNat].setWidth 32 else 0) else 0 := by
  by_cases h : i.toNat < 255
  · have hi : (i != 0xFF) = true := bne_iff_ne.mpr fun e => by simp [e] at h
    simp only [State.readWord, Tables.expOf, h, hi, Bool.and_true, Nat.mod_eq_of_lt, dite_true]
  · have hi : i = 0xFF := by bv_omega
    simp [State.readWord, hi]

end Sys2Proof.Machine
end

section
/-! The host port's windows, its bus errors and its one-way places (20). -/

namespace Sys2Proof.Machine

/-- Settles O33: the address reaches entry `v` of the window, and the read sends that entry's word. -/
theorem tableWindows : Obligations.TableWindows := by
  intro s v
  constructor
  · exact serve_read_of_target s (target_log v) rfl
  · rw [serve_read_of_target s (target_exp v) rfl, readWord_exp]
    rfl

/-- Settles O34: every such access reaches no row of the map. -/
theorem busErrorHasNoEffect : Obligations.BusErrorHasNoEffect := by
  intro s addr size w hbad
  have hnone : target addr size = none := by
    rw [target_eq_none_iff]
    refine hbad.imp_right (Or.imp_right fun hreserved => ?_)
    rw [locate_eq_reserved_iff]
    simp only [List.mem_cons, List.not_mem_nil, or_false]
    omega
  exact ⟨serve_read_of_target_none s hnone, serve_write_of_target_none s w hnone⟩

/-- Settles O36: a write to a read-only row leaves the state alone, and CMD and COEF read as 0. -/
theorem readOnlyAndWriteOnly : Obligations.ReadOnlyAndWriteOnly := by
  refine ⟨fun s addr w ha hrow => ?_, fun s addr ha hrow => ?_⟩
  · obtain ⟨l, ht, hkeep⟩ := target_readOnly ha hrow
    rw [serve_write_of_target s w ht, hkeep]
    rfl
  · obtain rfl | ⟨lo, hi⟩ := hrow
    · exact serve_read_of_target s (l := .cmd) (by decide) rfl
    · exact serve_read_of_target s (target_of_aligned ha (locate_eq_coef lo (by omega)) nofun) rfl

end Sys2Proof.Machine
end

section
/-! SUPPORT. Decoding and encoding are each other's inverse (30 R82-R85): a word is legal exactly when it
is the encoding of a command, so what is true of every encoding's fields is true of every legal word's. -/

namespace Sys2Proof

theorem ifReservedZero_eq_cmd_iff {zero : Bool} {i j : Instr} :
    ifReservedZero zero i = .cmd j ↔ zero = true ∧ i = j := by
  cases zero <;> simp [ifReservedZero]

@[simp] theorem decode_encode (i : Instr) : decode (encode i) = .cmd i := by
  cases i <;> simp [encode, decode, ifReservedZero]

/-- The command of a legal word carries the word's operand fields, and the fields it lacks are 0. -/
theorem encode_eq_packFields_of_decode {w : Word} {i : Instr} (h : decode w = .cmd i) :
    encode i = packFields (opField w) (nField w) (aField w) (bField w) := by
  simp only [decode] at h
  split_ifs at h with hop hop hop hop hop hop hop
  all_goals
    obtain ⟨hzero, rfl⟩ := ifReservedZero_eq_cmd_iff.mp h
    simp only [Bool.and_eq_true, beq_iff_eq] at hzero
    simp only [encode, hop, hzero]

theorem decode_eq_cmd_iff {w : Word} {i : Instr} : decode w = .cmd i ↔ encode i = w := by
  constructor
  · intro h
    rw [encode_eq_packFields_of_decode h, packFields_fields]
  · rintro rfl
    exact decode_encode i

/-- 30 R84: a word is illegal exactly when it is the encoding of no command. -/
theorem illegal_iff {w : Word} : (∃ why, decode w = .illegal why) ↔ ∀ i, encode i ≠ w := by
  simp only [ne_eq, ← decode_eq_cmd_iff]
  cases decode w <;> simp

end Sys2Proof
end

section
/-! The illegal words (30 R83, R84). -/

namespace Sys2Proof

theorem opField_encode_mem (i : Instr) :
    opField (encode i) ∈ ([0x00, 0x01, 0x02, 0x03, 0x04, 0x10, 0x20] : List Byte) := by
  cases i <;> simp [encode]

/-- Settles O5: no encoding has an unassigned op, and a legal word is the encoding of its command alone. -/
theorem unassignedOpcodesIllegal : Obligations.UnassignedOpcodesIllegal := by
  refine ⟨fun w hop => illegal_iff.mpr ?_, by decide +kernel, fun w => ?_⟩
  · rintro i rfl
    exact hop (opField_encode_mem i)
  · cases h : decode w with
    | cmd i =>
      refine .inl ⟨i, rfl, fun j => ?_⟩
      rw [← decode_eq_cmd_iff, h, Decoded.cmd.injEq, eq_comm]
    | illegal why => exact .inr ⟨⟨why, rfl⟩, illegal_iff.mp ⟨why, h⟩⟩

/-- Settles O6: every encoding holds 0 in each field its row of the map marks 0. -/
theorem reservedFieldsIllegal : Obligations.ReservedFieldsIllegal := by
  refine ⟨fun w hfield => illegal_iff.mpr ?_, ⟨.reservedField, by decide⟩, ⟨.reservedField, by decide⟩⟩
  rintro i rfl
  cases i <;> simp [encode] at hfield

end Sys2Proof
end

section
/-! The field commands that raise no flag: ADD and MUL (40 R104, R106). -/

namespace Sys2Proof.Machine

/-- 30 R91: the completion of a command that returns `r`, with no flag and no unwritten entry read. -/
theorem State.complete_of_no_flag (s : State) (r : Byte) :
    s.complete { r := r, dz := false, writesRes := true } [] =
      { s with res := r, pend := false, tick := s.tick + 1 } := by
  simp [State.complete]

/-- Settles O9: ADD is the completion that returns `gfAdd a b`. -/
theorem addCompletes : Obligations.AddCompletes := fun a b s =>
  ⟨s.tick + 1, by rw [exec_eq_complete, outcomeOf, State.complete_of_no_flag, gfAdd]⟩

/-- Settles O10: MUL is the completion that returns `gfMul s.tables a b`. -/
theorem mulCompletes : Obligations.MulCompletes := fun a b s =>
  ⟨s.tick + 1, by
    simp only [exec_eq_complete, outcomeOf, State.complete_of_no_flag, gfMul, Tables.expOf, Tables.logOf]⟩

end Sys2Proof.Machine
end

section
/-! SUPPORT. The two loops of LAGR as sums and searches (42 R151, R152), and what a repeated identifier
does to them (42 R156). -/

namespace Sys2Proof.Machine

/-! A product with a zero factor, and the denominator of two points (40 R104, R106, R107) -/

@[simp] theorem gfMul_zero_left (t : Tables) (b : Byte) : gfMul t 0#8 b = 0#8 := by simp [gfMul]

@[simp] theorem gfMul_zero_right (t : Tables) (a : Byte) : gfMul t a 0#8 = 0#8 := by simp [gfMul]

/-- 40 R104: in characteristic 2 a sum is zero exactly when its terms are equal. -/
@[simp] theorem gfAdd_eq_zero_iff {a b : Byte} : gfAdd a b = 0#8 ↔ a = b := BitVec.xor_eq_zero_iff

theorem gfDiv_dz_iff {t : Tables} {a b : Byte} : (gfDiv t a b).2 = true ↔ b = 0x00 := decide_eq_true_iff

/-- 42 R156: the quotient of two points with one identifier. -/
theorem gfDiv_of_equal_x (t : Tables) {a b : Byte} (h : a = b) :
    gfDiv t a (gfAdd a b) = (0x00, true) := by
  simp [gfDiv, gfAdd_eq_zero_iff.mpr h]

/-! The inner loop: one basis weight -/

theorem lagrangeWeightTo_succ_self (t : Tables) (p : Nat → Point) (j : Nat) :
    lagrangeWeightTo t p j (j + 1) = lagrangeWeightTo t p j j := by
  simp [lagrangeWeightTo]

theorem lagrangeWeightTo_succ_of_ne (t : Tables) (p : Nat → Point) {j k : Nat} (h : k ≠ j) :
    lagrangeWeightTo t p j (k + 1) =
      (gfMul t (lagrangeWeightTo t p j k).1 (gfDiv t (p k).x (gfAdd (p k).x (p j).x)).1,
        (lagrangeWeightTo t p j k).2 || (gfDiv t (p k).x (gfAdd (p k).x (p j).x)).2) := by
  simp [lagrangeWeightTo, h]

/-- Among the first m points a point other than j has the identifier of point j. -/
def RepeatsX (p : Nat → Point) (m j : Nat) : Prop := ∃ k, k < m ∧ k ≠ j ∧ (p k).x = (p j).x

theorem not_repeatsX_zero (p : Nat → Point) (j : Nat) : ¬ RepeatsX p 0 j := by simp [RepeatsX]

theorem repeatsX_succ_iff {p : Nat → Point} {m j : Nat} :
    RepeatsX p (m + 1) j ↔ RepeatsX p m j ∨ (m ≠ j ∧ (p m).x = (p j).x) :=
  Nat.exists_lt_succ_right

theorem not_occursOnce_iff {p : Nat → Point} {n j : Nat} : ¬ OccursOnce p n j ↔ RepeatsX p n j := by
  simp [RepeatsX]

/-- 42 R151: the inner loop indicates DZ exactly when it met the identifier of its own point. -/
theorem lagrangeWeightTo_dz_iff (t : Tables) (p : Nat → Point) (j m : Nat) :
    (lagrangeWeightTo t p j m).2 = true ↔ RepeatsX p m j := by
  induction m with
  | zero => simp [lagrangeWeightTo, not_repeatsX_zero]
  | succ m ih =>
    rw [repeatsX_succ_iff]
    by_cases h : m = j
    · subst h
      simp [lagrangeWeightTo_succ_self, ih]
    · simp [lagrangeWeightTo_succ_of_ne t p h, gfDiv_dz_iff, ih, h]

/-- 42 R156: once the quotient of a repeated identifier has entered the product, the weight is zero. -/
theorem lagrangeWeightTo_eq_zero_of_repeatsX (t : Tables) {p : Nat → Point} {j m : Nat}
    (hrep : RepeatsX p m j) : (lagrangeWeightTo t p j m).1 = 0x00 := by
  induction m with
  | zero => exact absurd hrep (not_repeatsX_zero p j)
  | succ m ih =>
    obtain hearlier | ⟨hne, hx⟩ := repeatsX_succ_iff.mp hrep
    · by_cases h : m = j
      · subst h
        rw [lagrangeWeightTo_succ_self, ih hearlier]
      · simp [lagrangeWeightTo_succ_of_ne t p h, ih hearlier]
    · simp [lagrangeWeightTo_succ_of_ne t p hne, gfDiv_of_equal_x t hx]

/-! The outer loop: the weighted sum and the DZ indication -/

/-- 42 R151: acc after j iterations is the sum of the first j weighted points. -/
theorem lagrangeTo_fst (t : Tables) (p : Nat → Point) (n j : Nat) :
    (lagrangeTo t p n j).1 = xorSum (fun l => gfMul t (p l).y (lagrangeWeightTo t p l n).1) j := by
  induction j with
  | zero => rfl
  | succ j ih => simp [lagrangeTo, xorSum, ih]

/-- 42 R151: dzany after j iterations. -/
theorem lagrangeTo_dz_iff (t : Tables) (p : Nat → Point) (n j : Nat) :
    (lagrangeTo t p n j).2 = true ↔ ∃ l, l < j ∧ RepeatsX p n l := by
  induction j with
  | zero => simp [lagrangeTo]
  | succ j ih =>
    rw [Nat.exists_lt_succ_right, ← ih, ← lagrangeWeightTo_dz_iff t p j n]
    simp [lagrangeTo]

/-- 42 R156, 60 R171: LAGR indicates DZ exactly when two of its points have one identifier. -/
theorem lagrange_dz_iff (t : Tables) (p : Nat → Point) (n : Nat) :
    (lagrange t p n).2 = true ↔ ∃ j k, j < n ∧ k < n ∧ k ≠ j ∧ (p k).x = (p j).x := by
  simp [lagrange, lagrangeTo_dz_iff, RepeatsX]

/-- 42 R156: the points with a repeated identifier drop out of the sum. -/
theorem lagrange_eq_sum_over_occursOnce (t : Tables) (p : Nat → Point) (n : Nat) :
    (lagrange t p n).1 =
      xorSum (fun l => if OccursOnce p n l then gfMul t (p l).y (lagrangeWeightTo t p l n).1 else 0x00)
        n := by
  have hterm : ∀ l, gfMul t (p l).y (lagrangeWeightTo t p l n).1 =
      if OccursOnce p n l then gfMul t (p l).y (lagrangeWeightTo t p l n).1 else 0x00 := by
    intro l
    split_ifs with honce
    · rfl
    · simp [lagrangeWeightTo_eq_zero_of_repeatsX t (not_occursOnce_iff.mp honce)]
  rw [lagrange, lagrangeTo_fst]
  exact congrArg (xorSum · n) (funext hterm)

end Sys2Proof.Machine
end

section
/-! LAGR on points with a repeated identifier (42 R156). -/

namespace Sys2Proof.Machine

/-- 42 R156: LAGR on two points with one identifier completes with RES = acc and DZ. -/
theorem exec_lagr_of_duplicates (n : Byte) (s : State)
    (hdup : ∃ j k, j < n.toNat ∧ k < n.toNat ∧ k ≠ j ∧ (s.pointOperand k).x = (s.pointOperand j).x) :
    ∃ s', exec (.lagr n) s = .next s' ∧
      s'.res = (lagrange s.tables s.pointOperand n.toNat).1 ∧ s'.err.dz = true ∧ s'.pend = false := by
  have hdz := (lagrange_dz_iff s.tables s.pointOperand n.toNat).mpr hdup
  refine ⟨_, exec_eq_complete (.lagr n) s, rfl, ?_, rfl⟩
  simp [State.complete, outcomeOf, hdz, Err.set]

/-- 42 R156, the example: with two points of one identifier nothing is left of the sum. -/
theorem lagrange_of_two_equal_x (t : Tables) {p : Nat → Point} (h : (p 1).x = (p 0).x) :
    lagrange t p 2 = (0x00, true) := by
  have hrep0 : RepeatsX p 2 0 := ⟨1, by decide, by decide, h⟩
  have hrep1 : RepeatsX p 2 1 := ⟨0, by decide, by decide, h.symm⟩
  have hdz := (lagrange_dz_iff t p 2).mpr ⟨0, 1, by decide, by decide, by decide, h⟩
  refine Prod.ext ?_ hdz
  rw [lagrange, lagrangeTo_fst]
  simp [xorSum, lagrangeWeightTo_eq_zero_of_repeatsX t hrep0,
    lagrangeWeightTo_eq_zero_of_repeatsX t hrep1]

/-- Settles O30: a repeated identifier puts a zero factor into the weights of both its points. -/
theorem lagrangeOfDuplicates : Obligations.LagrangeOfDuplicates := by
  refine ⟨fun t p n => ⟨lagrange_dz_iff t p n, fun j k hj hk hne hx => ⟨?_, ?_, ?_⟩,
    lagrange_eq_sum_over_occursOnce t p n⟩, exec_lagr_of_duplicates, fun t p h0 h1 => ?_⟩
  · exact gfDiv_of_equal_x t hx
  · exact lagrangeWeightTo_eq_zero_of_repeatsX t ⟨k, hk, hne, hx⟩
  · exact lagrangeWeightTo_eq_zero_of_repeatsX t ⟨j, hj, hne.symm, hx.symm⟩
  · exact lagrange_of_two_equal_x t (by rw [h0, h1])

end Sys2Proof.Machine
end

section
/-! Command words: decoding, encoding, the match/mask rows and the assembler (30 R82-R85, R93, R94). -/

namespace Sys2Proof

/-- Settles O2, by the law that every encoding decodes to its command. -/
theorem decodeOfEncode : Obligations.DecodeOfEncode := decode_encode

/-- Settles O3, by the law that a legal word is the encoding of its command. -/
theorem encodeOfDecode : Obligations.EncodeOfDecode := fun _ _ => decode_eq_cmd_iff.mp

theorem packFields_and (op n a b op' n' a' b' : Byte) :
    packFields op n a b &&& packFields op' n' a' b' =
      packFields (op &&& op') (n &&& n') (a &&& a') (b &&& b') := by
  apply BitVec.eq_of_getLsbD_eq
  intro k _
  simp only [BitVec.getLsbD_and, packFields_getLsbD]
  split_ifs <;> rfl

theorem packFields_inj {op n a b op' n' a' b' : Byte} :
    packFields op n a b = packFields op' n' a' b' ↔ op = op' ∧ n = n' ∧ a = a' ∧ b = b' := by
  refine ⟨fun h => ?_, by rintro ⟨rfl, rfl, rfl, rfl⟩; rfl⟩
  have hop := congrArg opField h
  have hn := congrArg nField h
  have ha := congrArg aField h
  have hb := congrArg bField h
  simp only [opField_packFields, nField_packFields, aField_packFields, bField_packFields] at hop hn ha hb
  exact ⟨hop, hn, ha, hb⟩

/-- 30 R82: the encoding of a command is in its row of the map. -/
theorem encode_and_rowMask (i : Instr) : encode i &&& rowMask i = rowMatch i := by
  cases i
  · exact Laws.TableRow.nop
  · exact Laws.TableRow.add _ _
  · exact Laws.TableRow.mul _ _
  · exact Laws.TableRow.div _ _
  · exact Laws.TableRow.inv _
  · exact Laws.TableRow.eval _ _
  · exact Laws.TableRow.lagr _

theorem packFields_eq_iff {op n a b : Byte} {w : Word} :
    packFields op n a b = w ↔ op = opField w ∧ n = nField w ∧ a = aField w ∧ b = bField w := by
  rw [← packFields_inj, packFields_fields]

/-- 30 R82: a row's mask, field by field. -/
theorem rowMask_eq_packFields (i : Instr) : rowMask i = match i with
    | .nop => packFields 0xFF 0xFF 0xFF 0xFF
    | .add _ _ | .mul _ _ | .div _ _ => packFields 0xFF 0xFF 0x00 0x00
    | .inv _ => packFields 0xFF 0xFF 0xFF 0x00
    | .eval _ _ => packFields 0xFF 0x00 0xFF 0x00
    | .lagr _ => packFields 0xFF 0x00 0xFF 0xFF := by
  cases i <;> rfl

/-- 30 R82: a row's match, field by field: the op, and 0 in the others. -/
theorem rowMatch_eq_packFields (i : Instr) :
    rowMatch i = packFields (opField (encode i)) 0x00 0x00 0x00 := by
  cases i <;> rw [encode, opField_packFields] <;> rfl

theorem and_0xFF (v : Byte) : v &&& 0xFF = v := BitVec.and_allOnes

theorem and_0x00 (v : Byte) : v &&& 0x00 = 0x00 := BitVec.and_zero

/-- 30 R82: a word of a row of the map is the encoding of a command of that row, with the operands the
word holds in the fields the mask leaves free. -/
theorem exists_encode_eq_of_and_rowMask {w : Word} {i : Instr} (h : w &&& rowMask i = rowMatch i) :
    ∃ j, encode j = w ∧ rowMatch j = rowMatch i := by
  rw [← packFields_fields w, rowMask_eq_packFields, rowMatch_eq_packFields] at h
  cases i
  all_goals
    simp only [packFields_and, packFields_inj, encode, opField_packFields, and_0xFF, and_0x00] at h
  case nop => exact ⟨.nop, by simp [encode, packFields_eq_iff, h], rfl⟩
  case add => exact ⟨.add (aField w) (bField w), by simp [encode, packFields_eq_iff, h], rfl⟩
  case mul => exact ⟨.mul (aField w) (bField w), by simp [encode, packFields_eq_iff, h], rfl⟩
  case div => exact ⟨.div (aField w) (bField w), by simp [encode, packFields_eq_iff, h], rfl⟩
  case inv => exact ⟨.inv (bField w), by simp [encode, packFields_eq_iff, h], rfl⟩
  case eval => exact ⟨.eval (nField w) (bField w), by simp [encode, packFields_eq_iff, h], rfl⟩
  case lagr => exact ⟨.lagr (nField w), by simp [encode, packFields_eq_iff, h], rfl⟩

/-- Settles O4: a word of a row is the encoding of a command of the row, and decodes to it. -/
theorem matchMaskSelectsRow : Obligations.MatchMaskSelectsRow := by
  intro w
  have hdecodes : ∀ i, w &&& rowMask i = rowMatch i →
      ∃ j, decode w = .cmd j ∧ rowMatch j = rowMatch i := by
    intro i h
    obtain ⟨j, hj, hrow⟩ := exists_encode_eq_of_and_rowMask h
    exact ⟨j, decode_eq_cmd_iff.mpr hj, hrow⟩
  refine ⟨fun i h => ?_, hdecodes, fun i j hi hj => ?_⟩
  · rw [← decode_eq_cmd_iff.mp h, encode_and_rowMask]
  · obtain ⟨k, hk, hki⟩ := hdecodes i hi
    obtain ⟨l, hl, hlj⟩ := hdecodes j hj
    obtain rfl : k = l := Decoded.cmd.inj (hk.symm.trans hl)
    exact hki.symm.trans hlj

/-- Settles O1, word by word. -/
theorem specWordsDecode : Obligations.SpecWordsDecode := by
  unfold Obligations.SpecWordsDecode
  decide

namespace Machine

/-- Settles O7: an operand in 8 bits is its field, and a pseudo-command has the operands of its
expansion. -/
theorem assemblerEncodesLines : Obligations.AssemblerEncodesLines := by
  refine ⟨fun l h => by simp [assemble, h], fun a b => ?_, fun a b => ?_⟩
  · simp [assemble, AsmLine.wellFormed, AsmLine.operands, encode, packFields, a.isLt, b.isLt]
  · refine ⟨rfl, ?_, rfl, ?_⟩ <;> simp [assemble, AsmLine.wellFormed, AsmLine.operands]

end Machine
end Sys2Proof
end

section
/-! SUPPORT. Which access reaches CMD, ERR and the buffers (20 R54), and everything
that one access and one step can do, with the places and times each belongs to (20, 30 R90, 00 R12). -/

namespace Sys2Proof.Machine

/-! The address of an access, from the row it reaches -/

theorem target_eq_some_iff {addr : Addr} {size : Size} {l : Loc} :
    target addr size = some l ↔
      size = .four ∧ addr.toNat % 4 = 0 ∧ locate addr = l ∧ l ≠ .reserved := by
  constructor
  · intro h
    have hserved : ¬ target addr size = none := by simp [h]
    rw [target_eq_none_iff] at hserved
    push Not at hserved
    obtain ⟨ha, rfl, hr⟩ := hserved
    rw [target_of_aligned ha rfl hr, Option.some.injEq] at h
    exact ⟨rfl, ha, h, h ▸ hr⟩
  · rintro ⟨rfl, ha, hl, hr⟩
    exact target_of_aligned ha hl hr

theorem eq_of_target_eq_err {addr : Addr} {size : Size} (h : target addr size = some .err) :
    addr = 0x0008 ∧ size = .four := by
  obtain ⟨hsize, _, hl, _⟩ := target_eq_some_iff.mp h
  refine ⟨BitVec.eq_of_toNat_eq ?_, hsize⟩
  simp only [locate] at hl
  split_ifs at hl
  assumption

theorem eq_of_target_eq_cmd {addr : Addr} {size : Size} (h : target addr size = some .cmd) :
    addr = 0x000C ∧ size = .four := by
  obtain ⟨hsize, _, hl, _⟩ := target_eq_some_iff.mp h
  refine ⟨BitVec.eq_of_toNat_eq ?_, hsize⟩
  simp only [locate] at hl
  split_ifs at hl
  assumption

theorem locate_eq_point {addr : Addr} (lo : 0x0800 ≤ addr.toNat) (hi : addr.toNat < 0x0C00) :
    locate addr = .point (addr.extractLsb' 2 8) := by
  simp (disch := omega) only [locate, if_neg, if_pos]

theorem range_of_locate_eq_coef {addr : Addr} {k : Byte} (h : locate addr = .coef k) :
    0x0400 ≤ addr.toNat ∧ addr.toNat < 0x0800 := by
  simp only [locate] at h
  split_ifs at h
  omega

theorem range_of_locate_eq_point {addr : Addr} {j : Byte} (h : locate addr = .point j) :
    0x0800 ≤ addr.toNat ∧ addr.toNat < 0x0C00 := by
  simp only [locate] at h
  split_ifs at h
  omega

theorem target_coef (k : Byte) :
    target (BitVec.ofNat 13 (0x0400 + 4 * k.toNat)) .four = some (.coef k) := by
  have ht := windowAddr_toNat (base := 0x0400) (by decide) k
  refine target_of_aligned (by omega) ?_ nofun
  rw [locate_eq_coef (by omega) (by omega), windowAddr_index (by decide) (by decide)]

theorem target_point (j : Byte) :
    target (BitVec.ofNat 13 (0x0800 + 4 * j.toNat)) .four = some (.point j) := by
  have ht := windowAddr_toNat (base := 0x0800) (by decide) j
  refine target_of_aligned (by omega) ?_ nofun
  rw [locate_eq_point (by omega) (by omega), windowAddr_index (by decide) (by decide)]

/-- The places a busy block drops writes to (20 R65): CMD and the buffers. -/
def Loc.droppedWhileBusy : Loc → Bool
  | .cmd | .coef _ | .point _ => true
  | _ => false

/-- 20 R54: the addresses of the places a busy block drops writes to. -/
theorem exists_target_droppedWhileBusy_iff {addr : Addr} {size : Size} :
    (∃ l, target addr size = some l ∧ l.droppedWhileBusy = true) ↔
      size = .four ∧ addr.toNat % 4 = 0 ∧
        (addr = 0x000C ∨ (0x0400 ≤ addr.toNat ∧ addr.toNat ≤ 0x0BFC)) := by
  constructor
  · rintro ⟨l, ht, hl⟩
    obtain ⟨hsize, ha, hloc, _⟩ := target_eq_some_iff.mp ht
    refine ⟨hsize, ha, ?_⟩
    cases l with
    | cmd => exact .inl (eq_of_target_eq_cmd ht).1
    | coef k => have := range_of_locate_eq_coef hloc; omega
    | point j => have := range_of_locate_eq_point hloc; omega
    | _ => cases hl
  · rintro ⟨rfl, ha, rfl | ⟨lo, hi⟩⟩
    · exact ⟨.cmd, by decide, rfl⟩
    · by_cases hcoef : addr.toNat < 0x0800
      · exact ⟨_, target_of_aligned ha (locate_eq_coef lo hcoef) nofun, rfl⟩
      · exact ⟨_, target_of_aligned ha (locate_eq_point (by omega) (by omega)) nofun, rfl⟩

/-- 20 R65: a busy block raises OVR at a write to CMD or a buffer, and does nothing else. -/
theorem serveWrite_of_busy {s : State} (hb : s.busy = true) {l : Loc} (hl : l.droppedWhileBusy = true)
    (w : Word) : s.serveWrite l w = s.raise .ovr := by
  cases l with
  | cmd => simp [State.serveWrite, State.accept, hb]
  | coef k => simp [State.serveWrite, hb]
  | point j => simp [State.serveWrite, hb]
  | _ => cases hl

theorem serveWrite_coef_of_idle {s : State} (hb : s.busy = false) (k : Byte) (w : Word) :
    s.serveWrite (.coef k) w = s.writeCoef k.toNat (w.extractLsb' 0 8) := by
  simp [State.serveWrite, hb]

theorem serveWrite_point_of_idle {s : State} (hb : s.busy = false) (j : Byte) (w : Word) :
    s.serveWrite (.point j) w = s.writePoint j.toNat (Point.ofWord w) := by
  simp [State.serveWrite, hb]

theorem legalWord_iff {w : Word} : legalWord w = true ↔ ∃ i, decode w = .cmd i := by
  unfold legalWord
  cases decode w <;> simp

theorem not_legalWord_iff {w : Word} : legalWord w = false ↔ ∃ why, decode w = .illegal why := by
  unfold legalWord
  cases decode w <;> simp

/-! One access -/

/-- What one access can do to the block, by the place it reaches and whether the block is busy (20 R56-R65,
30 R90, 60 R172, R173). -/
inductive Served (s : State) : BusOp → State → Prop
  | readBusErr (addr : Addr) (size : Size) (bad : target addr size = none) :
      Served s (.read addr size) ((s.record .busErr).reply (.readBusErr 0x00000000))
  | writeBusErr (addr : Addr) (size : Size) (w : Word) (bad : target addr size = none) :
      Served s (.write addr size w) ((s.record .busErr).reply .writeBusErr)
  | read (addr : Addr) (size : Size) (l : Loc) (place : target addr size = some l) :
      Served s (.read addr size) (s.serveRead l)
  | clear (w : Word) :
      Served s (.write 0x0008 .four w) (State.reply { s with err := s.err.clear w } .ok)
  | dropped (addr : Addr) (w : Word) (busy : s.busy = true) (aligned : addr.toNat % 4 = 0)
      (place : addr = 0x000C ∨ (0x0400 ≤ addr.toNat ∧ addr.toNat ≤ 0x0BFC)) :
      Served s (.write addr .four w) ((s.raise .ovr).reply .ok)
  | illegal (w : Word) (idle : s.busy = false) (why : ∃ why, decode w = .illegal why) :
      Served s (.write 0x000C .four w) ((s.raise .ill).reply .ok)
  | accepted (w : Word) (idle : s.busy = false) (legal : legalWord w = true) :
      Served s (.write 0x000C .four w) ((s.setPending w).reply .ok)
  | coef (addr : Addr) (w : Word) (k : Byte) (idle : s.busy = false)
      (place : target addr .four = some (.coef k)) :
      Served s (.write addr .four w) ((s.writeCoef k.toNat (w.extractLsb' 0 8)).reply .ok)
  | point (addr : Addr) (w : Word) (j : Byte) (idle : s.busy = false)
      (place : target addr .four = some (.point j)) :
      Served s (.write addr .four w) ((s.writePoint j.toNat (Point.ofWord w)).reply .ok)
  | ignored (addr : Addr) (size : Size) (w : Word)
      (place : ∃ l, target addr size = some l ∧ l ≠ .err ∧ l.droppedWhileBusy = false) :
      Served s (.write addr size w) (s.reply .ok)

theorem served_cmd (s : State) (w : Word) :
    Served s (.write 0x000C .four w) ((s.accept w).reply .ok) := by
  obtain ⟨hb, h⟩ | ⟨hb, hw, h⟩ | ⟨hb, hw, h⟩ := accept_cases s w <;> rw [h]
  · exact .dropped _ w hb (by decide) (.inl rfl)
  · exact .accepted w hb hw
  · exact .illegal w hb (not_legalWord_iff.mp hw)

theorem served (s : State) (a : BusOp) : Served s a (s.serve a) := by
  cases a with
  | read addr size =>
    obtain ⟨ht, h⟩ | ⟨l, ht, h⟩ := serve_read_cases s addr size <;> rw [h]
    · exact .readBusErr addr size ht
    · exact .read addr size l ht
  | write addr size w =>
    obtain ⟨ht, h⟩ | ⟨ht, h⟩ | ⟨ht, h⟩ | ⟨k, ht, hb, h⟩ | ⟨j, ht, hb, h⟩ | ⟨ht, hb, h⟩ |
      ⟨⟨l, ht, herr, hcmd, hcoef, hpoint⟩, h⟩ := serve_write_cases s addr size w <;> rw [h]
    · exact .writeBusErr addr size w ht
    · obtain ⟨rfl, rfl⟩ := eq_of_target_eq_err ht
      exact .clear w
    · obtain ⟨rfl, rfl⟩ := eq_of_target_eq_cmd ht
      exact served_cmd s w
    · obtain rfl := (target_eq_some_iff.mp ht).1
      exact .coef addr w k hb ht
    · obtain rfl := (target_eq_some_iff.mp ht).1
      exact .point addr w j hb ht
    · obtain ⟨rfl, ha, hplace⟩ := exists_target_droppedWhileBusy_iff.mp
        (ht.elim (fun ⟨_, hk⟩ => ⟨_, hk, rfl⟩) (fun ⟨_, hj⟩ => ⟨_, hj, rfl⟩))
      exact .dropped addr w hb ha hplace
    · refine .ignored addr size w ⟨l, ht, herr, ?_⟩
      cases l with
      | cmd => exact absurd rfl hcmd
      | coef k => exact absurd rfl (hcoef k)
      | point j => exact absurd rfl (hpoint j)
      | _ => rfl

/-! One step -/

/-- 10 R23: bit 1 of STATUS is BUSY. -/
theorem statusWord_bit_one (s : State) : s.statusWord.getLsbD 1 = s.busy := by
  cases hb : s.busy <;> cases hr : s.ready <;> simp [State.statusWord, hb, hr]

/-- What one step can do (00 R12, R14): the host's access or its WAIT, the init step, a completion, or
nothing once the run has ended. -/
inductive Stepped (s : State) : State → Prop
  | access (a : BusOp) (rest : List HostOp) (u : State) (line : s.host = .access a :: rest)
      (turn : s.busy = true → s.slack ≠ 0)
      (serves : Served { s with host := rest, slack := s.slack - 1 } a u) : Stepped s u.advance
  | wait (rest : List HostOp) (line : s.host = .wait :: rest) (turn : s.busy = true → s.slack ≠ 0) :
      Stepped s
        { s with
          host := if s.busy then s.host else rest
          slack := s.slack - 1
          replies := s.replies ++ [.data s.statusWord]
          tick := s.tick + 1 }
  | init (unready : s.ready = false) (turn : s.host = [] ∨ s.slack = 0) : Stepped s (initStep s)
  | complete (i : Instr) (ready : s.ready = true) (pend : s.pend = true)
      (fetched : decode s.pcmd = .cmd i) (turn : s.host = [] ∨ s.slack = 0) :
      Stepped s (s.complete (outcomeOf i s).1 (outcomeOf i s).2)
  | ended (idle : s.busy = false) (line : s.host = []) : Stepped s s

/-- 30 R95: WAIT reads STATUS and stays while BUSY = 1. -/
theorem hostStep_wait {s : State} {rest : List HostOp} (h : s.host = .wait :: rest) :
    hostStep s =
      { s with
        host := if s.busy then s.host else rest
        slack := s.slack - 1
        replies := s.replies ++ [.data s.statusWord]
        tick := s.tick + 1 } := by
  have ht : target 0x0004 .four = some .status := by decide
  simp only [hostStep, h, statusWord_bit_one]
  rw [serve_read_of_target _ ht rfl]
  rfl

theorem hostStep_access {s : State} {a : BusOp} {rest : List HostOp} (h : s.host = .access a :: rest) :
    hostStep s = (State.serve { s with host := rest, slack := s.slack - 1 } a).advance := by
  simp only [hostStep, h]

theorem stepped_host {s : State} (hline : s.host ≠ []) (hturn : s.busy = true → s.slack ≠ 0) :
    Stepped s (hostStep s) := by
  cases h : s.host with
  | nil => exact absurd h hline
  | cons op rest =>
    cases op with
    | access a =>
      rw [hostStep_access h]
      exact .access a rest _ h hturn (served _ a)
    | wait =>
      rw [hostStep_wait h]
      exact .wait rest h hturn

theorem stepped {s s' : State} (h : step s = .next s') : Stepped s s' := by
  have hagent := nextAgent_cases s
  obtain ⟨ha, rfl⟩ | ⟨ha, rfl⟩ | ⟨ha, i, hi, rfl⟩ | ⟨ha, rfl⟩ := step_cases s s' h <;>
    simp only [ha, reduceCtorEq, false_and, true_and, or_false, false_or] at hagent
  · exact stepped_host hagent.1 hagent.2
  · exact .init hagent.1 hagent.2
  · obtain ⟨hb, hr, hturn⟩ := hagent
    exact .complete i hr (by simpa [State.busy, hr] using hb) hi hturn
  · exact .ended hagent.1 hagent.2

end Sys2Proof.Machine
end

section
/-! The host port: registers, buffers, CMD and ERR (10 R23-R30, 20 R57-R65, 30 R90, 60 R176). -/

namespace Sys2Proof.Machine

/-- Settles O32, row by row of the map. -/
theorem registerReads : Obligations.RegisterReads := by
  intro s
  have hread := fun (addr : Addr) (l : Loc) (ht : target addr .four = some l) (hf : s.readFaults l = []) =>
    serve_read_of_target s ht hf
  refine ⟨hread 0x0000 .id (by decide) rfl, ?_, ?_, hread 0x000C .cmd (by decide) rfl,
    hread 0x0010 .res (by decide) rfl, hread 0x0014 .param (by decide) rfl⟩
  · rw [hread 0x0004 .status (by decide) rfl]
    cases hr : s.ready <;> cases hp : s.pend <;>
      simp [State.reply, State.readWord, State.statusWord, State.busy, hr, hp]
  · rw [hread 0x0008 .err (by decide) rfl]
    rcases he : s.err with ⟨dz, ill, ovr⟩
    cases dz <;> cases ill <;> cases ovr <;> simp [State.reply, State.readWord, Err.toWord, he]

/-- Settles O41: the address is ERR's, and the write is `Err.clear`. -/
theorem errIsWriteOneToClear : Obligations.ErrIsWriteOneToClear := fun s w =>
  serve_write_of_target s w (l := .err) (by decide)

/-- Settles O47, register by register. -/
theorem resetReads : Obligations.ResetReads := by
  refine ⟨rfl, by decide, by decide, rfl, by decide⟩

theorem serve_write_of_busy {s : State} (hb : s.busy = true) {addr : Addr} {l : Loc}
    (ht : target addr .four = some l) (hl : l.droppedWhileBusy = true) (w : Word) :
    s.serve (.write addr .four w) =
      { s with
        err := { s.err with ovr := true }
        faults := s.faults ++ [.ovr]
        replies := s.replies ++ [.ok] } := by
  rw [serve_write_of_target s w ht, serveWrite_of_busy hb hl]
  rfl

/-- Settles O39: a busy block drops the write at every place it names, and ERR and the read-only places
are written as at any time. -/
theorem busyDropsWrites : Obligations.BusyDropsWrites := by
  intro s addr w hb ha
  refine ⟨fun hplace => ?_, ?_, fun hrow => ?_⟩
  · obtain ⟨l, ht, hl⟩ := exists_target_droppedWhileBusy_iff.mpr ⟨rfl, ha, hplace⟩
    exact serve_write_of_busy hb ht hl w
  · rintro rfl
    exact errIsWriteOneToClear s w
  · exact readOnlyAndWriteOnly.1 s addr w ha hrow

theorem serve_cmd (s : State) (w : Word) :
    s.serve (.write 0x000C .four w) = (s.accept w).reply .ok :=
  serve_write_of_target s w (l := .cmd) (by decide)

/-- 30 R90: an idle block refuses an illegal word with ILL. -/
theorem serve_illegal {s : State} (hb : s.busy = false) {w : Word} (hw : ∃ why, decode w = .illegal why) :
    s.serve (.write 0x000C .four w) =
      { s with
        err := { s.err with ill := true }
        faults := s.faults ++ [.ill]
        replies := s.replies ++ [.ok] } := by
  rw [serve_cmd]
  simp [State.accept, hb, not_legalWord_iff.mpr hw, State.reply, State.raise, Err.set, ErrBit.runFault]

/-- Settles O40, by the three ways `accept` goes. -/
theorem commandAcceptance : Obligations.CommandAcceptance := by
  intro s w
  refine ⟨fun hb => serve_write_of_busy hb (l := .cmd) (by decide) rfl w,
    fun hb hw => serve_illegal hb hw,
    fun hb hw => ⟨Config.freeSlack (Config.latency (opField w) (nField w)) s.tick, ?_⟩⟩
  have haccept : s.accept w = s.setPending w := by simp [State.accept, hb, legalWord_iff.mpr hw]
  rw [serve_cmd, haccept]
  exact ⟨rfl, by simp [State.busy]⟩

/-- Settles O59: a bad access is answered before its place is known; the busy check comes before the
word's. -/
theorem accessPriority : Obligations.AccessPriority := by
  intro s addr size w
  refine ⟨fun ht => ?_, fun hb _ => ?_, fun hb hw => ?_⟩
  · simp [serve_write_of_target_none s w ht]
  · rw [(commandAcceptance s w).1 hb]
  · rw [serve_illegal hb hw]
    exact ⟨rfl, rfl, rfl⟩

/-! The buffers -/

/-- Settles O37: an idle block writes the entry's one byte, a busy one drops the write. -/
theorem coefAccess : Obligations.CoefAccess := by
  intro s k w
  refine ⟨fun hb => ⟨_, rfl, ?_⟩, fun hb => serve_write_of_busy hb (target_coef k) rfl w,
    serve_read_of_target s (target_coef k) rfl⟩
  rw [serve_write_of_target s w (target_coef k), serveWrite_coef_of_idle hb]
  refine ⟨rfl, ?_, fun a hne => ?_⟩
  · simp [State.coefEntry, Memory.read_write_same, BitVec.setWidth_eq_extractLsb']
  · exact Memory.read_write_ne _ _ _ _ hne

theorem read_writePoint_same (s : State) (j : Nat) (p : Point) :
    Memory.read (s.writePoint j p).mem (pointAddr j) = some p.y ∧
    Memory.read (s.writePoint j p).mem (pointAddr j + 1) = some p.x := by
  rw [State.writePoint_mem, Memory.read_write_ne _ _ _ _ (by omega), Memory.read_write_same,
    Memory.read_write_same]
  exact ⟨rfl, rfl⟩

/-- 10 R30: a written POINT entry holds the point written. -/
theorem pointEntry_writePoint (s : State) (j : Nat) (p : Point) :
    (s.writePoint j p).pointEntry j = some p := by
  obtain ⟨hy, hx⟩ := read_writePoint_same s j p
  rw [State.pointEntry, hy, hx]

/-- Settles O38: an idle block writes the entry's two bytes, a busy one drops the write. -/
theorem pointAccess : Obligations.PointAccess := by
  intro s j w
  have hread : s.serve (.read (BitVec.ofNat 13 (0x0800 + 4 * j.toNat)) .four) = s.serveRead (.point j) := by
    simp [State.serve, target_point]
  refine ⟨fun hb => ⟨_, rfl, ?_⟩, fun hb => serve_write_of_busy hb (target_point j) rfl w,
    fun p hp => ?_, fun hnone =>
      ⟨(s.pointOperand j.toNat).x, (s.pointOperand j.toNat).y, ?_⟩⟩
  · rw [serve_write_of_target s w (target_point j), serveWrite_point_of_idle hb]
    refine ⟨rfl, pointEntry_writePoint s j.toNat (Point.ofWord w), fun a hy hx => ?_⟩
    rw [State.reply_mem, State.writePoint_mem, Memory.read_write_ne _ _ _ _ (by unfold pointAddr; omega)]
    exact Memory.read_write_ne _ _ _ _ hy
  · simp [hread, State.serveRead, State.readWord, State.readFaults, State.pointOperand, hp, Point.toWord]
  · simp [hread, State.serveRead, State.readWord, State.readFaults, hnone, Point.toWord]

/-! Reading and writing twice (20 R57) -/

/-- Writing what a write has just left changes nothing, whatever the list's order. -/
theorem Memory.write_write_same (m : Memory) (a : Nat) (v : Byte) :
    Memory.write (Memory.write m a v) a v = Memory.write m a v := by
  induction m with
  | nil => simp [Memory.write]
  | cons c rest ih =>
    obtain ⟨b, u⟩ := c
    by_cases hlt : a < b
    · simp [Memory.write, hlt]
    · by_cases heq : a = b
      · simp [Memory.write, heq]
      · simp [Memory.write, hlt, heq, ih]

/-- A byte a write would leave alone stays so after a write to another address. -/
theorem Memory.write_write_of_eq {m : Memory} {a : Nat} {v : Byte} (h : Memory.write m a v = m) {b : Nat}
    (hne : a ≠ b) (u : Byte) : Memory.write (Memory.write m b u) a v = Memory.write m b u := by
  induction m with
  | nil => simp [Memory.write] at h
  | cons c rest ih =>
    obtain ⟨d, w⟩ := c
    obtain hlt | rfl | hgt := Nat.lt_trichotomy a d
    · simp only [Memory.write, hlt, if_true, List.cons.injEq, Prod.mk.injEq] at h
      omega
    · obtain rfl : v = w := by simpa [Memory.write] using h
      obtain hb | hb := Nat.lt_or_gt_of_ne hne
      · simp [Memory.write, hb.ne', show ¬ b < a by omega]
      · simp [Memory.write, hb, hne, show ¬ a < b by omega]
    · have hrest : Memory.write rest a v = rest := by
        simpa [Memory.write, hgt.ne', show ¬ a < d by omega] using h
      obtain hb | rfl | hb := Nat.lt_trichotomy b d
      · simp [Memory.write, hb, hne, hgt.ne', hrest, show ¬ a < b by omega, show ¬ a < d by omega]
      · simp [Memory.write, hne, hrest, show ¬ a < b by omega]
      · simp [Memory.write, hb.ne', hgt.ne', ih hrest, show ¬ a < d by omega, show ¬ b < d by omega]

theorem State.writeCoef_writeCoef_mem (s : State) (k : Nat) (v : Byte) :
    ((s.writeCoef k v).writeCoef k v).mem = (s.writeCoef k v).mem :=
  Memory.write_write_same _ _ _

theorem State.writePoint_writePoint_mem (s : State) (j : Nat) (p : Point) :
    ((s.writePoint j p).writePoint j p).mem = (s.writePoint j p).mem := by
  have hy : Memory.write (s.writePoint j p).mem (pointAddr j) p.y = (s.writePoint j p).mem :=
    Memory.write_write_of_eq (Memory.write_write_same _ _ _) (by omega) _
  rw [State.writePoint_mem, hy]
  exact Memory.write_write_same _ _ _

theorem Err.clear_clear (e : Err) (w : Word) : (e.clear w).clear w = e.clear w := by
  simp [Err.clear]

/-- 20 R57: a second read is answered as the first, for a read changes nothing that a read returns. -/
theorem readWord_serveRead (s : State) (l l' : Loc) : (s.serveRead l).readWord l' = s.readWord l' := by
  cases l' <;> rfl

theorem sameBlock_serve_read (s : State) (addr : Addr) (size : Size) :
    SameBlock (s.serve (.read addr size)) s := by
  obtain ⟨-, h⟩ | ⟨l, -, h⟩ := serve_read_cases s addr size <;> rw [h] <;> constructor <;> rfl

theorem serve_read_twice_replies (s : State) (addr : Addr) (size : Size) :
    ∃ r, (s.serve (.read addr size)).replies = s.replies ++ [r] ∧
      ((s.serve (.read addr size)).serve (.read addr size)).replies = s.replies ++ [r, r] := by
  cases ht : target addr size with
  | none => exact ⟨.readBusErr 0x00000000, by simp [serve_read_of_target_none _ ht]⟩
  | some l => exact ⟨.data (s.readWord l), by simp [State.serve, ht, readWord_serveRead]⟩

/-- The rows that 20 R57 says a write leaves alike when it is repeated. -/
theorem target_writeTwice {addr : Addr} {l : Loc} (ht : target addr .four = some l)
    (hplace : addr = 0x0008 ∨ (0x0400 ≤ addr.toNat ∧ addr.toNat < 0x0C00)) :
    l = .err ∨ (∃ k, l = .coef k) ∨ ∃ j, l = .point j := by
  obtain ⟨-, ha, hl, -⟩ := target_eq_some_iff.mp ht
  obtain rfl | ⟨lo, hi⟩ := hplace
  · exact .inl (Option.some.inj (ht.symm.trans (by decide)))
  · by_cases hcoef : addr.toNat < 0x0800
    · exact .inr (.inl ⟨_, hl.symm.trans (locate_eq_coef lo hcoef)⟩)
    · exact .inr (.inr ⟨_, hl.symm.trans (locate_eq_point (by omega) hi)⟩)

/-- 20 R57, R65: the second of two equal writes finds the block busy if the first did, and the entry
written if the first was performed. -/
theorem sameBlock_serveWrite_twice (s : State) (w : Word) {l : Loc}
    (hl : l = .err ∨ (∃ k, l = .coef k) ∨ ∃ j, l = .point j) :
    SameBlock (((s.serveWrite l w).reply .ok).serveWrite l w) ((s.serveWrite l w).reply .ok) := by
  obtain rfl | hbuffer := hl
  · exact { params := rfl, ready := rfl, err := Err.clear_clear _ _, res := rfl, mem := rfl
            tables := rfl, pend := rfl, pcmd := rfl }
  cases hb : s.busy with
  | false =>
    obtain ⟨k, rfl⟩ | ⟨j, rfl⟩ := hbuffer
    · rw [serveWrite_coef_of_idle hb, serveWrite_coef_of_idle (s := (s.writeCoef _ _).reply _) hb]
      exact { params := rfl, ready := rfl, err := rfl, res := rfl, tables := rfl, pend := rfl, pcmd := rfl
              mem := State.writeCoef_writeCoef_mem s _ _ }
    · rw [serveWrite_point_of_idle hb, serveWrite_point_of_idle (s := (s.writePoint _ _).reply _) hb]
      exact { params := rfl, ready := rfl, err := rfl, res := rfl, tables := rfl, pend := rfl, pcmd := rfl
              mem := State.writePoint_writePoint_mem s _ _ }
  | true =>
    have hd : l.droppedWhileBusy = true := by obtain ⟨k, rfl⟩ | ⟨j, rfl⟩ := hbuffer <;> rfl
    rw [serveWrite_of_busy hb hd, serveWrite_of_busy (s := (s.raise _).reply _) hb hd]
    constructor <;> rfl

theorem sameBlock_serve_write_twice (s : State) {addr : Addr} (w : Word)
    (hplace : addr = 0x0008 ∨ (0x0400 ≤ addr.toNat ∧ addr.toNat < 0x0C00)) :
    SameBlock ((s.serve (.write addr .four w)).serve (.write addr .four w))
      (s.serve (.write addr .four w)) := by
  cases ht : target addr .four with
  | none =>
    simp only [serve_write_of_target_none _ w ht]
    constructor <;> rfl
  | some l =>
    simp only [serve_write_of_target _ w ht]
    have h := sameBlock_serveWrite_twice s w (target_writeTwice ht hplace)
    exact { h with }

/-- Settles O35: a read only adds to the record of the run, and a repeated write finds what it left. -/
theorem readsHaveNoSideEffect : Obligations.ReadsHaveNoSideEffect :=
  ⟨fun s addr size => ⟨sameBlock_serve_read s addr size, serve_read_twice_replies s addr size⟩,
    fun s _ w hplace => sameBlock_serve_write_twice s w hplace⟩

end Sys2Proof.Machine
end

section
/-! What a command leaves when it completes (30 R91, 40, 41, 42). -/

namespace Sys2Proof.Machine

/-! The loops depend on the entries they name and no other -/

theorem hornerFrom_congr (t : Tables) {c d : Nat → Byte} (x : Byte) {n : Nat}
    (h : ∀ k, k < n → c k = d k) (r : Byte) : hornerFrom t c x n r = hornerFrom t d x n r := by
  induction n generalizing r with
  | zero => rfl
  | succ n ih => rw [hornerFrom, hornerFrom, h n n.lt_succ_self, ih fun k hk => h k (hk.trans n.lt_succ_self)]

theorem horner_congr (t : Tables) {c d : Nat → Byte} (x : Byte) {n : Nat} (h : ∀ k, k < n → c k = d k) :
    horner t c x n = horner t d x n :=
  hornerFrom_congr t x h 0x00

theorem lagrangeWeightTo_congr (t : Tables) {p q : Nat → Point} {n j : Nat} (h : ∀ k, k < n → p k = q k)
    (hj : j < n) {m : Nat} (hm : m ≤ n) : lagrangeWeightTo t p j m = lagrangeWeightTo t q j m := by
  induction m with
  | zero => rfl
  | succ m ih => simp only [lagrangeWeightTo, ih (Nat.le_of_succ_le hm), h m hm, h j hj]

theorem lagrangeTo_congr (t : Tables) {p q : Nat → Point} {n j : Nat} (h : ∀ k, k < n → p k = q k)
    (hj : j ≤ n) : lagrangeTo t p n j = lagrangeTo t q n j := by
  induction j with
  | zero => rfl
  | succ j ih =>
    simp only [lagrangeTo, ih (Nat.le_of_succ_le hj), h j hj, lagrangeWeightTo_congr t h hj le_rfl]

theorem lagrange_congr (t : Tables) {p q : Nat → Point} {n : Nat} (h : ∀ k, k < n → p k = q k) :
    lagrange t p n = lagrange t q n :=
  lagrangeTo_congr t h le_rfl

/-! The entries a command reads -/

theorem coefOperand_of_entry {s : State} {k : Nat} {v : Byte} (h : s.coefEntry k = some v) :
    s.coefOperand k = v := by
  simp [State.coefOperand, h]

theorem pointOperand_of_entry {s : State} {j : Nat} {p : Point} (h : s.pointEntry j = some p) :
    s.pointOperand j = p := by
  simp [State.pointOperand, h]

theorem coefFaults_of_held {s : State} {n : Nat} (h : ∀ k, k < n → s.coefEntry k ≠ none) :
    s.coefFaults n = [] := by
  simpa [State.coefFaults, State.coefsHeld] using h

theorem coefFaults_of_unwritten {s : State} {n : Nat} (h : ∃ k, k < n ∧ s.coefEntry k = none) :
    s.coefFaults n = [.coefNoValue] := by
  simpa [State.coefFaults, State.coefsHeld] using h

theorem pointFaults_of_held {s : State} {n : Nat} (h : ∀ j, j < n → s.pointEntry j ≠ none) :
    s.pointFaults n = [] := by
  simpa [State.pointFaults, State.pointsHeld] using h

theorem pointFaults_of_unwritten {s : State} {n : Nat} (h : ∃ j, j < n ∧ s.pointEntry j = none) :
    s.pointFaults n = [.pointNoValue] := by
  simpa [State.pointFaults, State.pointsHeld] using h

/-- 30 R91: the completion of a command that returns `r` with the division-by-zero indication. -/
theorem State.complete_of_dz (s : State) (r : Byte) :
    s.complete { r := r, dz := true, writesRes := true } [] =
      { s with
        res := r
        err := { s.err with dz := true }
        faults := s.faults ++ [RunFault.dz]
        pend := false
        tick := s.tick + 1 } := by
  simp [State.complete, Err.set]

/-! Each command -/

/-- Settles O8: NOP is the completion that writes nothing. -/
theorem nopCompletes : Obligations.NopCompletes := by
  intro s
  rw [exec_eq_complete]
  simp [outcomeOf, State.complete]

/-- Settles O11, by the two cases of the divisor in `gfDiv`. -/
theorem divCompletes : Obligations.DivCompletes := by
  intro a b s
  rw [exec_eq_complete, outcomeOf]
  by_cases hb : b = 0#8
  · simp [gfDiv, hb, State.complete_of_dz]
  · simp [gfDiv, hb, State.complete_of_no_flag, Tables.expOf, Tables.logOf]

/-- Settles O13: the coefficients read are the values held. -/
theorem evalCompletes : Obligations.EvalCompletes := by
  intro n x c s hc
  have hfaults : s.coefFaults n.toNat = [] := coefFaults_of_held fun k hk => by simp [hc k hk]
  have hhorner : horner s.tables s.coefOperand x n.toNat = horner s.tables c x n.toNat :=
    horner_congr _ _ fun k hk => coefOperand_of_entry (hc k hk)
  rw [exec_eq_complete, outcomeOf, hfaults, hhorner, State.complete_of_no_flag]

/-- Settles O15: an unwritten entry is read as a free value and recorded once. -/
theorem evalOfUnwrittenEntryFaultsRun : Obligations.EvalOfUnwrittenEntryFaultsRun := by
  intro n x s h
  refine ⟨horner s.tables s.coefOperand x n.toNat, ?_⟩
  rw [exec_eq_complete, outcomeOf, coefFaults_of_unwritten h]
  simp [State.complete]

/-- Settles O16: the points read are the points held; DZ is the loop's indication. -/
theorem lagrCompletes : Obligations.LagrCompletes := by
  intro n p s hp
  have hfaults : s.pointFaults n.toNat = [] := pointFaults_of_held fun j hj => by simp [hp j hj]
  have hlagrange : lagrange s.tables s.pointOperand n.toNat = lagrange s.tables p n.toNat :=
    lagrange_congr _ fun j hj => pointOperand_of_entry (hp j hj)
  rw [exec_eq_complete, outcomeOf, hfaults, hlagrange]
  cases hdz : (lagrange s.tables p n.toNat).2
  · simp [State.complete_of_no_flag]
  · simp [State.complete_of_dz]

/-- Settles O18: an unwritten entry is read as a free point and recorded once, before DZ. -/
theorem lagrOfUnwrittenEntryFaultsRun : Obligations.LagrOfUnwrittenEntryFaultsRun := by
  intro n s h
  refine ⟨(lagrange s.tables s.pointOperand n.toNat).1, (lagrange s.tables s.pointOperand n.toNat).2, ?_⟩
  rw [exec_eq_complete, outcomeOf, pointFaults_of_unwritten h]
  cases (lagrange s.tables s.pointOperand n.toNat).2 <;> simp [State.complete, Err.set]

/-! All commands together -/

/-- 30 R91: only DIV, INV and LAGR return the division-by-zero indication. -/
theorem outcomeOf_dz_of_other {i : Instr} (h : ∀ a b n, i ≠ .div a b ∧ i ≠ .inv b ∧ i ≠ .lagr n)
    (s : State) : (outcomeOf i s).1.dz = false := by
  cases i with
  | div a b => exact absurd rfl (h a b 0).1
  | inv b => exact absurd rfl (h 0 b 0).2.1
  | lagr n => exact absurd rfl (h 0 0 n).2.2
  | _ => rfl

theorem outcomeOf_writesRes {i : Instr} (h : i ≠ .nop) (s : State) :
    (outcomeOf i s).1.writesRes = true := by
  cases i with
  | nop => exact absurd rfl h
  | _ => rfl

theorem complete_err_dz (s : State) (out : Result) (touched : List RunFault) :
    (s.complete out touched).err.dz = (s.err.dz || out.dz) := by
  cases hdz : out.dz <;> simp [hdz, Err.set]

/-- Settles O19: the completion step writes RES, DZ, PEND and the record of the run. -/
theorem commandFrame : Obligations.CommandFrame := by
  intro i s s' h
  rw [exec_eq_complete] at h
  obtain rfl := Host.Outcome.next.inj h
  have herr : ∀ d : Bool, (bif d then s.err.set .dz else s.err).ill = s.err.ill ∧
      (bif d then s.err.set .dz else s.err).ovr = s.err.ovr := by
    intro d
    cases d <;> exact ⟨rfl, rfl⟩
  refine ⟨rfl, rfl, rfl, (herr _).1, (herr _).2, fun hdz => ?_, rfl, rfl, fun _ => rfl, rfl, rfl, rfl,
    rfl, rfl, rfl, ?_, fun hother => ?_⟩
  · rw [complete_err_dz, hdz, Bool.true_or]
  · rintro rfl
    rfl
  · simp [outcomeOf_dz_of_other hother]

/-- 10 R35: what a command returns is a function of the tables and the entries it names. -/
theorem outcomeOf_congr {i : Instr} {s t : State} (htables : s.tables = t.tables)
    (hcoef : ∀ n x k, i = .eval n x → k < n.toNat → s.coefOperand k = t.coefOperand k)
    (hpoint : ∀ n j, i = .lagr n → j < n.toNat → s.pointOperand j = t.pointOperand j) :
    (i ≠ .nop → (outcomeOf i s).1.r = (outcomeOf i t).1.r) ∧
      (outcomeOf i s).1.dz = (outcomeOf i t).1.dz := by
  cases i with
  | nop => simp [outcomeOf]
  | eval n x => simp [outcomeOf, htables, horner_congr _ x fun k hk => hcoef n x k rfl hk]
  | lagr n => simp [outcomeOf, htables, lagrange_congr _ fun j hj => hpoint n j rfl hj]
  | _ => simp [outcomeOf, htables]

/-- Settles O20: equal outcomes complete with equal RES and the same DZ indication. -/
theorem commandReadsOnlyItsOperands : Obligations.CommandReadsOnlyItsOperands := by
  intro i s t htables hcoef hpoint
  obtain ⟨hr, hdz⟩ := outcomeOf_congr htables hcoef hpoint
  refine ⟨_, _, exec_eq_complete i s, exec_eq_complete i t, fun hnop => ?_, (outcomeOf i s).1.dz,
    complete_err_dz _ _ _, ?_⟩
  · simp [outcomeOf_writesRes hnop, hr hnop]
  · rw [complete_err_dz, hdz]

/-! The loops (41 R131, 42 R151) -/

/-- 41 R131: the loop from k = n downto 0 ends with the constant term. -/
theorem hornerFrom_succ (t : Tables) (c : Nat → Byte) (x : Byte) (n : Nat) (r : Byte) :
    hornerFrom t c x (n + 1) r = gfAdd (gfMul t (hornerFrom t (fun k => c (k + 1)) x n r) x) (c 0) := by
  induction n generalizing r with
  | zero => rfl
  | succ n ih => rw [hornerFrom, ih]; rfl

/-- Settles O14, by the loop's recursion on the constant term. -/
theorem hornerLoop : Obligations.HornerLoop := fun t c x n => ⟨rfl, hornerFrom_succ t c x n 0x00⟩

/-- Settles O17: the outer loop is the sum, the inner loop the product. -/
theorem lagrangeIsWeightedSum : Obligations.LagrangeIsWeightedSum := by
  intro t p n
  refine ⟨lagrangeTo_fst t p n n, fun j k => ⟨rfl, ?_⟩⟩
  split_ifs with h
  · rw [h, lagrangeWeightTo_succ_self]
  · rw [lagrangeWeightTo_succ_of_ne t p h, gfAdd]

end Sys2Proof.Machine
end

section
/-! SUPPORT. The invariant, access by access and step by step. -/

namespace Sys2Proof.Machine

/-- 30 R92: with the invariant nothing is pending before the tables are built. -/
theorem Inv.pend_eq_false_of_unready {s : State} (hinv : Inv s) (h : s.ready = false) : s.pend = false :=
  Bool.eq_false_iff.mpr fun hp => by simp [hinv.pendReady hp] at h

theorem not_busy_iff {s : State} : s.busy = false ↔ s.ready = true ∧ s.pend = false := by
  simp [State.busy]

/-- The fields the invariant speaks of. -/
theorem Inv.of_fields_eq {s t : State} (hinv : Inv s) (hmem : t.mem = s.mem) (hready : t.ready = s.ready)
    (htables : t.tables = s.tables) (hparams : t.params = s.params) (hpend : t.pend = s.pend)
    (hpcmd : t.pcmd = s.pcmd) : Inv t where
  memWf := hmem ▸ hinv.memWf
  pointsPaired := hmem ▸ hinv.pointsPaired
  tablesBuilt := by rw [hready, htables, hparams]; exact hinv.tablesBuilt
  pendReady := by rw [hpend, hready]; exact hinv.pendReady
  pendLegal := by rw [hpend, hpcmd]; exact hinv.pendLegal

theorem read_writeCoef_point (s : State) (k : Byte) (v : Byte) {a : Nat} (ha : 0x0800 ≤ a) :
    Memory.read (s.writeCoef k.toNat v).mem a = Memory.read s.mem a := by
  have hk : k.toNat < 256 := k.isLt
  exact Memory.read_write_ne _ _ _ _ (by unfold coefAddr; omega)

theorem Inv.writeCoef {s : State} (hinv : Inv s) (k v : Byte) : Inv (s.writeCoef k.toNat v) where
  memWf := State.writeCoef_wf s k v hinv.memWf
  pointsPaired := fun j hj => by
    rw [read_writeCoef_point s k v (by unfold pointAddr; omega),
      read_writeCoef_point s k v (by unfold pointAddr; omega)]
    exact hinv.pointsPaired j hj
  tablesBuilt := hinv.tablesBuilt
  pendReady := hinv.pendReady
  pendLegal := hinv.pendLegal

/-- 10 R30, 20 R61: a write to a point leaves the halves of the others. -/
theorem read_writePoint_of_ne (s : State) {i j : Nat} (p : Point) (h : i ≠ j) :
    Memory.read (s.writePoint j p).mem (pointAddr i) = Memory.read s.mem (pointAddr i) ∧
    Memory.read (s.writePoint j p).mem (pointAddr i + 1) = Memory.read s.mem (pointAddr i + 1) := by
  constructor <;>
    rw [State.writePoint_mem, Memory.read_write_ne _ _ _ _ (by unfold pointAddr; omega),
      Memory.read_write_ne _ _ _ _ (by unfold pointAddr; omega)]

theorem Inv.writePoint {s : State} (hinv : Inv s) (j : Byte) (p : Point) : Inv (s.writePoint j.toNat p) where
  memWf := State.writePoint_wf s j p hinv.memWf
  pointsPaired := fun i hi => by
    by_cases hij : i = j.toNat
    · obtain ⟨hy, hx⟩ := read_writePoint_same s j.toNat p
      rw [hij, hy, hx]
      rfl
    · obtain ⟨hy, hx⟩ := read_writePoint_of_ne s p hij
      rw [hy, hx]
      exact hinv.pointsPaired i hi
  tablesBuilt := hinv.tablesBuilt
  pendReady := hinv.pendReady
  pendLegal := hinv.pendLegal

theorem Inv.setPending {s : State} (hinv : Inv s) (hb : s.busy = false) {w : Word} (hw : legalWord w = true) :
    Inv (s.setPending w) where
  memWf := hinv.memWf
  pointsPaired := hinv.pointsPaired
  tablesBuilt := hinv.tablesBuilt
  pendReady := fun _ => (not_busy_iff.mp hb).1
  pendLegal := fun _ => hw

theorem Inv.reply {s : State} (hinv : Inv s) (r : Reply) : Inv (s.reply r) :=
  hinv.of_fields_eq rfl rfl rfl rfl rfl rfl

theorem Inv.served {s u : State} {a : BusOp} (hinv : Inv s) (h : Served s a u) : Inv u := by
  cases h with
  | accepted w idle legal => exact (hinv.setPending idle legal).reply _
  | coef addr w k => exact (hinv.writeCoef k _).reply _
  | point addr w j => exact (hinv.writePoint j _).reply _
  | _ => exact hinv.of_fields_eq rfl rfl rfl rfl rfl rfl

theorem Inv.init {s : State} (hinv : Inv s) : Inv (initStep s) where
  memWf := hinv.memWf
  pointsPaired := hinv.pointsPaired
  tablesBuilt := fun _ => by rw [initStep_tables, initStep_params]
  pendReady := fun _ => rfl
  pendLegal := hinv.pendLegal

theorem Inv.complete {s : State} (hinv : Inv s) (out : Result) (touched : List RunFault) :
    Inv (s.complete out touched) where
  memWf := hinv.memWf
  pointsPaired := hinv.pointsPaired
  tablesBuilt := hinv.tablesBuilt
  pendReady := nofun
  pendLegal := nofun

theorem Inv.stepped {s s' : State} (hinv : Inv s) (h : Stepped s s') : Inv s' := by
  cases h with
  | access a rest u line turn serves =>
    have hturn : Inv { s with host := rest, slack := s.slack - 1 } :=
      hinv.of_fields_eq rfl rfl rfl rfl rfl rfl
    exact (hturn.served serves).of_fields_eq rfl rfl rfl rfl rfl rfl
  | wait rest => exact hinv.of_fields_eq rfl rfl rfl rfl rfl rfl
  | init => exact hinv.init
  | complete i => exact hinv.complete _ _
  | ended => exact hinv

/-- A state right after reset meets the invariant, whatever the host is to do. -/
theorem inv_launchWith (p : Params) (program : List HostOp) (d : Nat) :
    Inv (State.launchWith p program d) where
  memWf := rfl
  pointsPaired := fun _ _ => rfl
  tablesBuilt := nofun
  pendReady := nofun
  pendLegal := nofun

end Sys2Proof.Machine
end

section
/-! The machine's steps: whose turn it is, launches, the invariant, progress (00 R12, R14, 10 R36, 30 R91,
70). -/

namespace Sys2Proof.Machine

/-- Settles O49: a step is one of the cases of `Stepped`, and each keeps the invariant. -/
theorem stepKeepsInvariant : Obligations.StepKeepsInvariant := fun _ _ hinv h => hinv.stepped (stepped h)

/-- Settles O48: reset and a relaunch are launches. -/
theorem invariantAtReset : Obligations.InvariantAtReset :=
  ⟨inv_launchWith Params.default [] 0, inv_launchWith, fun s program =>
    (inv_launchWith s.params program (Config.freeSlack Config.initLatency s.tick)).of_fields_eq
      rfl rfl rfl rfl rfl rfl⟩

/-- 10 R36: what a launch leaves, whatever the host is to do. -/
theorem afterReset_launchWith (p : Params) (program : List HostOp) (d : Nat) :
    AfterReset p (State.launchWith p program d) where
  params := rfl
  ready := rfl
  busy := rfl
  err := rfl
  res := rfl
  pend := rfl
  coefs := fun _ => rfl
  points := fun _ => rfl
  faults := rfl

/-- Settles O46: reset and a relaunch are launches. -/
theorem resetValues : Obligations.ResetValues :=
  ⟨afterReset_launchWith Params.default [] 0, afterReset_launchWith, fun s program =>
    { afterReset_launchWith s.params program (Config.freeSlack Config.initLatency s.tick) with }⟩

/-! Whose turn it is -/

theorem nextAgent_eq_engine {s : State} (hr : s.ready = true) (hp : s.pend = true)
    (hturn : s.host = [] ∨ s.slack = 0) : nextAgent s = .engine := by
  obtain hh | hz := hturn <;> simp [nextAgent, State.busy, *]

theorem nextAgent_eq_init {s : State} (hr : s.ready = false) (hturn : s.host = [] ∨ s.slack = 0) :
    nextAgent s = .init := by
  obtain hh | hz := hturn <;> simp [nextAgent, State.busy, *]

theorem nextAgent_eq_host {s : State} (hline : s.host ≠ []) (hturn : s.busy = true → s.slack ≠ 0) :
    nextAgent s = .host := by
  cases hb : s.busy <;> simp_all [nextAgent]

theorem nextAgent_eq_nobody_iff {s : State} : nextAgent s = .nobody ↔ s.host = [] ∧ s.busy = false := by
  unfold nextAgent
  cases s.busy <;> cases s.ready <;> cases s.host <;> by_cases hz : s.slack = 0 <;> simp [hz]

/-- Settles O42: it is the engine's turn, and the command fetched is the one PCMD decodes to. -/
theorem stepRunsPendingCommand : Obligations.StepRunsPendingCommand := by
  intro s i hr hp hturn hi
  simp [step, nextAgent_eq_engine hr hp hturn, fetchCommand, hi]

theorem serve_tick (s : State) (a : BusOp) : (s.serve a).tick = s.tick := by
  obtain ⟨-, -, -, -, -, htick⟩ := serve_keeps s a
  exact htick

theorem step_of_host {s : State} (hline : s.host ≠ []) (hturn : s.busy = true → s.slack ≠ 0) :
    step s = .next (hostStep s) := by
  simp [step, nextAgent_eq_host hline hturn]

/-- Settles O43: it is the host's turn, and `hostStep` serves the line. -/
theorem stepServesHostAccess : Obligations.StepServesHostAccess := by
  refine ⟨fun s a rest hline hturn => ⟨_, rfl, ?_⟩, fun s rest hline hturn => ?_⟩
  · rw [step_of_host (by simp [hline]) hturn, hostStep_access hline, State.advance]
    rw [serve_tick]
  · rw [step_of_host (by simp [hline]) hturn, hostStep_wait hline]

theorem step_of_init {s : State} (hr : s.ready = false) (hturn : s.host = [] ∨ s.slack = 0) :
    step s = .next (initStep s) := by
  simp [step, nextAgent_eq_init hr hturn]

/-- Settles O44: it is the init sequencer's turn. -/
theorem stepBuildsTables : Obligations.StepBuildsTables := fun _ hr hturn =>
  ⟨_, step_of_init hr hturn, rfl, fun hp => not_busy_iff.mpr ⟨rfl, hp⟩⟩

/-- Settles O45, by the choice of the agent. -/
theorem endedRunWaits : Obligations.EndedRunWaits := fun s =>
  ⟨nextAgent_eq_nobody_iff, fun hh hb => by simp [step, nextAgent_eq_nobody_iff.mpr ⟨hh, hb⟩]⟩

/-! Progress -/

/-- With the invariant a busy unit whose turn has come takes its step, and the block is idle after it. -/
theorem exists_step_idle {s : State} (hinv : Inv s) (hb : s.busy = true)
    (hturn : s.host = [] ∨ s.slack = 0) : ∃ t, step s = .next t ∧ t.busy = false := by
  cases hr : s.ready with
  | false =>
    exact ⟨_, step_of_init hr hturn, not_busy_iff.mpr ⟨rfl, hinv.pend_eq_false_of_unready hr⟩⟩
  | true =>
    have hp : s.pend = true := by simpa [State.busy, hr] using hb
    obtain ⟨i, hi⟩ := legalWord_iff.mp (hinv.pendLegal hp)
    refine ⟨_, (stepRunsPendingCommand s i hr hp hturn hi).trans (exec_eq_complete i s), ?_⟩
    exact not_busy_iff.mpr ⟨hr, rfl⟩

/-- Settles O50, by whose turn it is. -/
theorem blockNeverStops : Obligations.BlockNeverStops := by
  intro s hinv
  by_cases hunit : s.busy = true ∧ (s.host = [] ∨ s.slack = 0)
  · obtain ⟨t, ht, -⟩ := exists_step_idle hinv hunit.1 hunit.2
    exact ⟨t, ht⟩
  · by_cases hh : s.host = []
    · exact ⟨s, (endedRunWaits s).2 hh (by simpa [hh] using hunit)⟩
    · exact ⟨_, step_of_host hh fun hb hz => hunit ⟨hb, .inr hz⟩⟩

/-- 20 R65: while busy an access leaves the pending command, its slack, the buffers and BUSY. -/
theorem Served.of_busy {s u : State} {a : BusOp} (h : Served s a u) (hb : s.busy = true) :
    u.busy = true ∧ u.pcmd = s.pcmd ∧ u.slack = s.slack ∧ u.mem = s.mem := by
  cases h with
  | illegal w idle | accepted w idle | coef addr w k idle | point addr w j idle => simp [hb] at idle
  | _ => exact ⟨hb, rfl, rfl, rfl⟩

/-- While the unit's turn has not come, a step of a busy block is the host's and takes one off its slack. -/
theorem exists_step_slack {s : State} (hb : s.busy = true) (hline : s.host ≠ []) (hz : s.slack ≠ 0) :
    ∃ t, step s = .next t ∧ t.busy = true ∧ t.slack = s.slack - 1 := by
  refine ⟨_, step_of_host hline fun _ => hz, ?_⟩
  cases hh : s.host with
  | nil => exact absurd hh hline
  | cons op rest =>
    cases op with
    | access a =>
      rw [hostStep_access hh]
      obtain ⟨hbusy, -, hslack, -⟩ := (served { s with host := rest, slack := s.slack - 1 } a).of_busy hb
      exact ⟨hbusy, hslack⟩
    | wait =>
      rw [hostStep_wait hh]
      exact ⟨hb, rfl⟩

theorem core_run_one {s t : State} (h : step s = .next t) : Host.Core.run core 1 s = .next t := by
  simp only [Host.Core.run, core, h]

theorem core_run_succ {s t : State} (h : step s = .next t) (k : Nat) :
    Host.Core.run core (k + 1) s = Host.Core.run core k t := by
  simp only [Host.Core.run, core, h]

/-- Settles O52, by induction on the slack: the host's steps use it up, then the unit takes its own. -/
theorem busyEnds : Obligations.BusyEnds := by
  intro s hinv hb
  induction hd : s.slack generalizing s with
  | zero =>
    obtain ⟨t, ht, hidle⟩ := exists_step_idle hinv hb (.inr hd)
    exact ⟨1, le_rfl, t, core_run_one ht, hidle⟩
  | succ d ih =>
    by_cases hline : s.host = []
    · obtain ⟨t, ht, hidle⟩ := exists_step_idle hinv hb (.inl hline)
      exact ⟨1, by omega, t, core_run_one ht, hidle⟩
    · obtain ⟨t, ht, hbusy, hslack⟩ := exists_step_slack hb hline (by omega)
      obtain ⟨k, hk, u, hu, hidle⟩ := ih t (stepKeepsInvariant s t hinv ht) hbusy (by omega)
      exact ⟨k + 1, by omega, u, (core_run_succ ht k).trans hu, hidle⟩

end Sys2Proof.Machine
end

section
/-! What steps keep, and what each change is the mark of (10 R24, R26, 20 R67, 60 R171-R177, 70 R202). -/

namespace Sys2Proof.Machine

theorem Served.keeps {s u : State} {a : BusOp} (h : Served s a u) :
    u.params = s.params ∧ u.ready = s.ready ∧ u.tables = s.tables ∧ u.res = s.res := by
  cases h <;> exact ⟨rfl, rfl, rfl, rfl⟩

/-- Settles O51: only the init step writes READY and the tables. -/
theorem readyAndTablesPersist : Obligations.ReadyAndTablesPersist := by
  intro s s' h
  cases stepped h with
  | access a rest u line turn serves =>
    obtain ⟨hparams, hready, htables, -⟩ := serves.keeps
    exact ⟨hparams, fun hr => ⟨hready.trans hr, htables⟩⟩
  | init unready => exact ⟨rfl, fun hr => by simp [hr] at unready⟩
  | wait | complete | ended => exact ⟨rfl, fun hr => ⟨hr, rfl⟩⟩

/-- Settles O54: the block is busy, so the host's access leaves the pending command's inputs. -/
theorem pendingInputsAreStable : Obligations.PendingInputsAreStable := by
  intro s s' h hp hp'
  cases stepped h with
  | access a rest u line turn serves =>
    have hb : s.busy = true := by simp [State.busy, hp]
    obtain ⟨-, hpcmd, hslack, hmem⟩ := serves.of_busy hb
    obtain ⟨-, -, htables, hres⟩ := serves.keeps
    exact ⟨hpcmd, hmem, hres, hslack.le.trans (Nat.sub_le _ _), fun _ => htables⟩
  | wait => exact ⟨rfl, rfl, rfl, Nat.sub_le _ _, fun _ => rfl⟩
  | init unready => exact ⟨rfl, rfl, rfl, le_rfl, fun hr => by simp [hr] at unready⟩
  | complete => cases hp'
  | ended => exact ⟨rfl, rfl, rfl, le_rfl, fun _ => rfl⟩

/-- Settles O55: only a completion writes RES, and that of NOP does not. -/
theorem resChangesOnlyAtCompletion : Obligations.ResChangesOnlyAtCompletion := by
  intro s s' h hres
  cases stepped h with
  | access a rest u line turn serves =>
    obtain ⟨-, -, -, hkeep⟩ := serves.keeps
    exact absurd hkeep hres
  | complete i ready pend fetched =>
    refine ⟨pend, rfl, i, ?_, fetched, exec_eq_complete i s⟩
    rintro rfl
    exact hres rfl
  | wait | init | ended => exact absurd rfl hres

/-! ERR and the record of the run -/

theorem Err.get_set (e : Err) (b b' : ErrBit) : (e.set b).get b' = (e.get b' || decide (b = b')) := by
  cases b <;> cases b' <;> simp [Err.set, Err.get]

/-- 10 R24: a write to ERR sets no bit. -/
theorem Err.get_of_get_clear {e : Err} {w : Word} {b : ErrBit} (h : (e.clear w).get b = true) :
    e.get b = true := by
  cases b <;> exact (Bool.and_eq_true_iff.mp h).1

/-- 60 R177: an access that clears an ERR bit is a write to ERR. -/
theorem Served.clear_of_err_cleared {s u : State} {a : BusOp} (h : Served s a u) {e : ErrBit}
    (hs : s.err.get e = true) (hu : u.err.get e = false) :
    ∃ w, a = .write 0x0008 .four w ∧ u.err = s.err.clear w := by
  cases h with
  | clear w => exact ⟨w, rfl, rfl⟩
  | dropped | illegal => simp [Err.get_set, hs] at hu
  | _ => simp [hs] at hu

/-- 60 R172, R173: an access that sets an ERR bit is a write a busy block dropped or an illegal word, and is
recorded. -/
theorem Served.of_err_set {s u : State} {a : BusOp} (h : Served s a u) {e : ErrBit}
    (hs : s.err.get e = false) (hu : u.err.get e = true) :
    u.faults = s.faults ++ [e.runFault] ∧
    ((e = .ovr ∧ s.busy = true ∧ ∃ addr w, a = .write addr .four w ∧ addr.toNat % 4 = 0 ∧
        (addr = 0x000C ∨ (0x0400 ≤ addr.toNat ∧ addr.toNat ≤ 0x0BFC))) ∨
      (e = .ill ∧ s.busy = false ∧ ∃ w, a = .write 0x000C .four w ∧ ∃ why, decode w = .illegal why)) := by
  cases h with
  | clear w => simp [Err.get_of_get_clear hu] at hs
  | dropped addr w busy aligned place =>
    obtain rfl : ErrBit.ovr = e := by simpa [Err.get_set, hs] using hu
    exact ⟨rfl, .inl ⟨rfl, busy, addr, w, rfl, aligned, place⟩⟩
  | illegal w idle why =>
    obtain rfl : ErrBit.ill = e := by simpa [Err.get_set, hs] using hu
    exact ⟨rfl, .inr ⟨rfl, idle, w, rfl, why⟩⟩
  | _ => simp [hs] at hu

theorem complete_err_get (s : State) (out : Result) (touched : List RunFault) (e : ErrBit) :
    (s.complete out touched).err.get e = (s.err.get e || (out.dz && decide (ErrBit.dz = e))) := by
  cases hdz : out.dz <;> simp [hdz, Err.get_set]

/-- 60 R171: a completion sets no ERR bit but DZ. -/
theorem complete_sets_dz {s : State} {out : Result} {touched : List RunFault} {e : ErrBit}
    (hs : s.err.get e = false) (hu : (s.complete out touched).err.get e = true) : out.dz = true ∧ e = .dz := by
  rw [complete_err_get, hs, Bool.false_or, Bool.and_eq_true, decide_eq_true_iff] at hu
  exact ⟨hu.1, hu.2.symm⟩

/-- 60 R171: the commands that return the division-by-zero indication. -/
theorem divisor_zero_of_dz {i : Instr} {s : State} (h : (outcomeOf i s).1.dz = true) :
    (∃ a, i = .div a 0) ∨ i = .inv 0 ∨
      ∃ n j k, i = .lagr n ∧ j < n.toNat ∧ k < n.toNat ∧ k ≠ j ∧
        (s.pointOperand k).x = (s.pointOperand j).x := by
  cases i with
  | div a b =>
    obtain rfl := (gfDiv_dz_iff (t := s.tables) (a := a)).mp h
    exact .inl ⟨a, rfl⟩
  | inv b =>
    obtain rfl := (gfDiv_dz_iff (t := s.tables) (a := 0x01)).mp h
    exact .inr (.inl rfl)
  | lagr n =>
    obtain ⟨j, k, hjk⟩ := (lagrange_dz_iff _ _ _).mp h
    exact .inr (.inr ⟨n, j, k, rfl, hjk⟩)
  | _ => cases h

/-- Settles O56: the other accesses and the completions only set bits. -/
theorem errBitsAreSticky : Obligations.ErrBitsAreSticky := by
  intro s s' e h hs hs'
  cases stepped h with
  | access a rest u line turn serves =>
    obtain ⟨w, rfl, hclear⟩ := serves.clear_of_err_cleared hs hs'
    refine ⟨w, rest, line, ?_⟩
    replace hs' : (s.err.clear w).get e = false := hclear ▸ hs'
    cases e <;> simp_all [Err.clear, Err.get]
  | complete =>
    rw [complete_err_get, hs] at hs'
    cases hs'
  | wait | init | ended => simp [hs] at hs'

/-- 60 R171-R173: what a step that sets an ERR bit was. -/
theorem Stepped.of_err_set {s s' : State} (h : Stepped s s') {e : ErrBit} (hs : s.err.get e = false)
    (hs' : s'.err.get e = true) :
    (e = .dz ∧ s.pend = true ∧ ∃ i, decode s.pcmd = .cmd i ∧ (outcomeOf i s).1.dz = true) ∨
    (e = .ovr ∧ s.busy = true ∧ ∃ addr w rest, s.host = .access (.write addr .four w) :: rest ∧
      addr.toNat % 4 = 0 ∧ (addr = 0x000C ∨ (0x0400 ≤ addr.toNat ∧ addr.toNat ≤ 0x0BFC))) ∨
    (e = .ill ∧ s.busy = false ∧ ∃ w rest, s.host = .access (.write 0x000C .four w) :: rest ∧
      ∃ why, decode w = .illegal why) := by
  cases h with
  | access a rest u line turn serves =>
    obtain ⟨-, ⟨rfl, busy, addr, w, rfl, place⟩ | ⟨rfl, idle, w, rfl, why⟩⟩ := serves.of_err_set hs hs'
    · exact .inr (.inl ⟨rfl, busy, addr, w, rest, line, place⟩)
    · exact .inr (.inr ⟨rfl, idle, w, rest, line, why⟩)
  | complete i ready pend fetched =>
    obtain ⟨hdz, rfl⟩ := complete_sets_dz hs hs'
    exact .inl ⟨rfl, pend, i, fetched, hdz⟩
  | wait | init | ended => simp [hs] at hs'

/-- Settles O57, bit by bit. -/
theorem errBitsSetOnlyByTheirEvents : Obligations.ErrBitsSetOnlyByTheirEvents := by
  intro s s' h
  refine ⟨fun hs hs' => ?_, fun hs hs' => ?_, fun hs hs' => ?_⟩
  · obtain ⟨-, hp, i, hi, hdz⟩ | ⟨he, -⟩ | ⟨he, -⟩ := (stepped h).of_err_set (e := .dz) hs hs'
    · refine ⟨hp, ?_⟩
      obtain ⟨a, rfl⟩ | rfl | ⟨n, j, k, rfl, hjk⟩ := divisor_zero_of_dz hdz
      · exact .inl ⟨a, hi⟩
      · exact .inr (.inl hi)
      · exact .inr (.inr ⟨n, j, k, hi, hjk⟩)
    all_goals cases he
  · obtain ⟨he, -⟩ | ⟨he, -⟩ | ⟨-, hill⟩ := (stepped h).of_err_set (e := .ill) hs hs'
    · cases he
    · cases he
    · exact hill
  · obtain ⟨he, -⟩ | ⟨-, hovr⟩ | ⟨he, -⟩ := (stepped h).of_err_set (e := .ovr) hs hs'
    · cases he
    · exact hovr
    · cases he

theorem Served.faults_grow {s u : State} {a : BusOp} (h : Served s a u) :
    ∃ new, u.faults = s.faults ++ new := by
  cases h with
  | read addr size l => exact ⟨s.readFaults l, rfl⟩
  | readBusErr | writeBusErr | dropped | illegal => exact ⟨[_], rfl⟩
  | _ => exact ⟨[], (List.append_nil _).symm⟩

/-- 20 R56: an access that gets a bus error is recorded. -/
theorem Served.recorded_of_busErr {s u : State} {a : BusOp} (h : Served s a u) {r : Reply}
    (hr : u.replies = s.replies ++ [r]) (hbad : r = .writeBusErr ∨ ∃ w, r = .readBusErr w) :
    u.faults = s.faults ++ [.busErr] := by
  cases h with
  | readBusErr | writeBusErr => rfl
  | _ =>
    obtain rfl : _ = r := by simpa using hr
    simp at hbad

/-- Settles O58: what a step adds to the record is what its access or completion adds. -/
theorem runFaultsAreRecorded : Obligations.RunFaultsAreRecorded := by
  intro s s' h
  cases stepped h with
  | access a rest u line turn serves =>
    obtain ⟨new, hnew⟩ := serves.faults_grow
    have hadded : ∀ f, u.faults = s.faults ++ [f] → f ∈ new := by
      intro f hf
      rw [List.append_cancel_left (hnew.symm.trans hf)]
      exact List.mem_singleton_self f
    exact ⟨new, hnew, fun e hs hs' => hadded _ (serves.of_err_set hs hs').1,
      fun r hr hbad => hadded _ (serves.recorded_of_busErr hr hbad)⟩
  | wait =>
    refine ⟨[], (List.append_nil _).symm, fun e hs hs' => by simp [hs] at hs', fun r hr hbad => ?_⟩
    obtain rfl : _ = r := by simpa using hr
    simp at hbad
  | complete i =>
    refine ⟨_, List.append_assoc _ _ _, fun e hs hs' => ?_, fun r hr => ?_⟩
    · obtain ⟨hdz, rfl⟩ := complete_sets_dz hs hs'
      simp [hdz, ErrBit.runFault]
    · simp at hr
  | init | ended =>
    exact ⟨[], (List.append_nil _).symm, fun e hs hs' => by simp [hs] at hs', fun r hr => by simp at hr⟩

end Sys2Proof.Machine
end

section
/-! SUPPORT. The machine of the timing view alone: one step of the order of events, from what 70 R210 lets it
depend on. Every step of the machine is one step of this one, so the order of events is a function of the
view. -/

namespace Sys2Proof.Machine

/-! The words and accesses of the view -/

/-- An access without the data it writes, as `timingOp` leaves it. -/
def timingBusOp : BusOp → BusOp
  | .read addr size => .read addr size
  | .write addr size w => .write addr size (if target addr size = some .cmd then timingWord w else 0)

theorem timingOp_access (a : BusOp) : timingOp (.access a) = .access (timingBusOp a) := by
  cases a <;> rfl

/-- 70 R210: the operands a and b do not make a legal word illegal. -/
theorem legalWord_without_operands {w : Word} (h : legalWord w = true) :
    legalWord (packFields (opField w) (nField w) 0x00 0x00) = true := by
  obtain ⟨i, hi⟩ := legalWord_iff.mp h
  obtain rfl := decode_eq_cmd_iff.mp hi
  cases i <;> simp [encode, legalWord, decode, ifReservedZero]

theorem timingWord_of_legal {w : Word} (h : legalWord w = true) :
    timingWord w = packFields (opField w) (nField w) 0x00 0x00 := by
  simp [timingWord, h]

theorem timingWord_of_illegal {w : Word} (h : legalWord w = false) : timingWord w = 0xFFFFFFFF := by
  simp [timingWord, h]

theorem legalWord_timingWord (w : Word) : legalWord (timingWord w) = legalWord w := by
  cases h : legalWord w with
  | true => rw [timingWord_of_legal h, legalWord_without_operands h]
  | false =>
    rw [timingWord_of_illegal h]
    decide

theorem timingWord_timingWord (w : Word) : timingWord (timingWord w) = timingWord w := by
  cases h : legalWord w with
  | true =>
    rw [timingWord_of_legal (by rw [legalWord_timingWord, h]), timingWord_of_legal h, opField_packFields,
      nField_packFields]
  | false =>
    rw [timingWord_of_illegal h]
    decide

/-! One step of the view -/

def TimingView.busy (v : TimingView) : Bool := !v.ready || v.pend

def TimingView.agent (v : TimingView) : Agent :=
  if v.busy && (v.host.isEmpty || v.slack == 0) then (if v.ready then .engine else .init)
  else if v.host.isEmpty then .nobody
  else .host

/-- A legal word has been written to CMD (30 R90). -/
def TimingView.setPending (v : TimingView) (w : Word) : TimingView :=
  { v with
    pend := true
    pending := timingWord w
    slack := Config.freeSlack (Config.latency (opField w) (nField w)) v.tick }

/-- One access, of which only a legal word written to the CMD of an idle block shows (30 R90). -/
def TimingView.serve (v : TimingView) : BusOp → TimingView
  | .read _ _ => v
  | .write addr size w =>
    if target addr size = some .cmd ∧ v.busy = false ∧ legalWord w = true then v.setPending w else v

def TimingView.hostStep (v : TimingView) : TimingView :=
  match v.host with
  | [] => v
  | .access a :: rest =>
    { TimingView.serve { v with host := rest, slack := v.slack - 1 } a with tick := v.tick + 1 }
  | .wait :: rest =>
    { v with host := if v.busy then .wait :: rest else rest, slack := v.slack - 1, tick := v.tick + 1 }

def TimingView.step (v : TimingView) : TimingView :=
  match v.agent with
  | .host => v.hostStep
  | .init => { v with ready := true, tick := v.tick + 1 }
  | .engine => { v with pend := false, tick := v.tick + 1 }
  | .nobody => v

/-! The machine's steps are the view's -/

theorem timing_serveWrite_of_ne_cmd (s : State) {l : Loc} (h : l ≠ .cmd) (w : Word) :
    (s.serveWrite l w).timing = s.timing := by
  cases hd : l.droppedWhileBusy with
  | false =>
    cases l with
    | cmd | coef | point => cases hd
    | _ => rfl
  | true =>
    cases hb : s.busy with
    | true => rw [serveWrite_of_busy hb hd]; rfl
    | false =>
      cases l with
      | coef k => rw [serveWrite_coef_of_idle hb]; rfl
      | point j => rw [serveWrite_point_of_idle hb]; rfl
      | cmd => exact absurd rfl h
      | _ => cases hd

/-- 30 R90: the view's pending word is the timing word of the word accepted, whose op and n it keeps. -/
theorem timing_accept (s : State) (w : Word) :
    (s.accept w).timing =
      if s.timing.busy = false ∧ legalWord (timingWord w) = true then s.timing.setPending (timingWord w)
      else s.timing := by
  have hbusy : s.timing.busy = s.busy := rfl
  rw [hbusy, legalWord_timingWord]
  obtain ⟨hb, h⟩ | ⟨hb, hw, h⟩ | ⟨hb, hw, h⟩ := accept_cases s w
  · simp only [h, hb, reduceCtorEq, false_and, if_false]
    rfl
  · simp only [h, hb, hw, and_self, if_true, TimingView.setPending, timingWord_timingWord]
    rw [timingWord_of_legal hw, opField_packFields, nField_packFields, ← timingWord_of_legal hw]
    rfl
  · simp only [h, hw, reduceCtorEq, and_false, if_false]
    rfl

theorem timing_serve (s : State) (a : BusOp) : (s.serve a).timing = s.timing.serve (timingBusOp a) := by
  cases a with
  | read addr size => obtain ⟨-, h⟩ | ⟨l, -, h⟩ := serve_read_cases s addr size <;> rw [h] <;> rfl
  | write addr size w =>
    by_cases hcmd : target addr size = some .cmd
    · rw [serve_write_of_target s w hcmd]
      simp only [timingBusOp, TimingView.serve, hcmd, if_true, true_and]
      exact timing_accept s w
    · simp only [timingBusOp, TimingView.serve, hcmd, if_false, false_and]
      cases ht : target addr size with
      | none => rw [serve_write_of_target_none s w ht]; rfl
      | some l =>
        rw [serve_write_of_target s w ht]
        exact timing_serveWrite_of_ne_cmd s (fun hl => hcmd (hl ▸ ht)) w

theorem nextAgent_eq_agent (s : State) : nextAgent s = s.timing.agent := by
  simp only [nextAgent, TimingView.agent, State.timing, List.isEmpty_map]
  rfl

theorem timing_advance (s : State) : s.advance.timing = { s.timing with tick := s.tick + 1 } := rfl

theorem timing_hostStep (s : State) : (Machine.hostStep s).timing = s.timing.hostStep := by
  cases hh : s.host with
  | nil => simp [Machine.hostStep, TimingView.hostStep, State.timing, hh]
  | cons op rest =>
    cases op with
    | access a =>
      have hview : s.timing.host = .access (timingBusOp a) :: rest.map timingOp := by
        simp [State.timing, hh, timingOp_access]
      rw [hostStep_access hh]
      simp only [TimingView.hostStep, hview]
      rw [timing_advance, timing_serve, serve_tick]
      rfl
    | wait =>
      have hview : s.timing.host = .wait :: rest.map timingOp := by simp [State.timing, hh, timingOp]
      have hbusy : s.timing.busy = s.busy := rfl
      rw [hostStep_wait hh]
      simp only [TimingView.hostStep, hview, hbusy]
      cases s.busy
      · rfl
      · simp [State.timing, hh, timingOp]

/-- 70 R210: every step of the machine is the step of its timing view. -/
theorem timing_step {s s' : State} (h : Machine.step s = .next s') : s'.timing = s.timing.step := by
  have hagent := nextAgent_eq_agent s
  obtain ⟨ha, rfl⟩ | ⟨ha, rfl⟩ | ⟨ha, i, -, rfl⟩ | ⟨ha, rfl⟩ := step_cases s s' h <;>
    rw [TimingView.step, ← hagent, ha]
  · exact timing_hostStep s
  all_goals rfl

end Sys2Proof.Machine
end

section
/-! The order of events and the data (40 R105, 70 R210). -/

namespace Sys2Proof.Machine

/-- Settles O53: both machines step, and each step is the one step of the view they share. -/
theorem timingIgnoresData : Obligations.TimingIgnoresData := by
  intro s t hs ht h
  obtain ⟨s', hs'⟩ := blockNeverStops s hs
  obtain ⟨t', ht'⟩ := blockNeverStops t ht
  refine ⟨by rw [nextAgent_eq_agent, nextAgent_eq_agent, h], s', t', hs', ht', ?_⟩
  rw [timing_step hs', timing_step ht', h]

end Sys2Proof.Machine
end

section
/-! SUPPORT. Two machines that differ only in what COEF holds, access by access and command by command
(20 R60, 60 R179, R183). -/

namespace Sys2Proof.Machine

/-- The two memories hold the same points. -/
def SamePoints (m m' : Memory) : Prop :=
  ∀ j, j < 256 →
    Memory.read m' (pointAddr j) = Memory.read m (pointAddr j) ∧
    Memory.read m' (pointAddr j + 1) = Memory.read m (pointAddr j + 1)

theorem sameButCoef_iff {s t : State} :
    SameButCoef s t ↔ ∃ m, t = { s with mem := m } ∧ SamePoints s.mem m := by
  constructor
  · rintro ⟨hrest, hpoints⟩
    exact ⟨t.mem, hrest, hpoints⟩
  · rintro ⟨m, rfl, hpoints⟩
    exact ⟨rfl, hpoints⟩

theorem SamePoints.pointEntry {s : State} {m : Memory} (h : SamePoints s.mem m) {j : Nat} (hj : j < 256) :
    State.pointEntry { s with mem := m } j = s.pointEntry j := by
  obtain ⟨hy, hx⟩ := h j hj
  simp only [State.pointEntry, hy, hx]

theorem SamePoints.pointOperand {s : State} {m : Memory} (h : SamePoints s.mem m) {j : Nat} (hj : j < 256) :
    State.pointOperand { s with mem := m } j = s.pointOperand j := by
  simp only [State.pointOperand, h.pointEntry hj]

theorem SamePoints.writeCoef {s t : State} (h : SamePoints s.mem t.mem) (k v : Byte) :
    SamePoints (s.writeCoef k.toNat v).mem (t.writeCoef k.toNat v).mem := by
  intro j hj
  have ha : 0x0800 ≤ pointAddr j := by unfold pointAddr; omega
  simp only [read_writeCoef_point _ k v ha, read_writeCoef_point _ k v (Nat.le_succ_of_le ha)]
  exact h j hj

theorem SamePoints.writePoint {s t : State} (h : SamePoints s.mem t.mem) (i : Nat) (p : Point) :
    SamePoints (s.writePoint i p).mem (t.writePoint i p).mem := by
  intro j hj
  by_cases hij : j = i
  · subst hij
    simp only [read_writePoint_same, and_self]
  · simp only [read_writePoint_of_ne _ p hij]
    exact h j hj

/-! Accesses -/

theorem SamePoints.readWord {s : State} {m : Memory} (h : SamePoints s.mem m) (l : Loc) :
    State.readWord { s with mem := m } l = s.readWord l := by
  cases l with
  | point j => simp only [State.readWord, h.pointOperand j.isLt]
  | _ => rfl

theorem SamePoints.readFaults {s : State} {m : Memory} (h : SamePoints s.mem m) (l : Loc) :
    State.readFaults { s with mem := m } l = s.readFaults l := by
  cases l with
  | point j => simp only [State.readFaults, h.pointEntry j.isLt]
  | _ => rfl

theorem SamePoints.serveRead {s : State} {m : Memory} (h : SamePoints s.mem m) (l : Loc) :
    State.serveRead { s with mem := m } l = { s.serveRead l with mem := m } := by
  simp only [State.serveRead, h.readWord, h.readFaults]

theorem accept_with_mem (s : State) (m : Memory) (w : Word) :
    State.accept { s with mem := m } w = { s.accept w with mem := m } := by
  have hbusy : State.busy { s with mem := m } = s.busy := rfl
  simp only [State.accept, hbusy]
  split_ifs <;> rfl

theorem accept_mem (s : State) (w : Word) : (s.accept w).mem = s.mem := by
  unfold State.accept
  split_ifs <;> rfl

theorem SamePoints.serveWrite {s : State} {m : Memory} (h : SamePoints s.mem m) (l : Loc) (w : Word) :
    SameButCoef (s.serveWrite l w) (State.serveWrite { s with mem := m } l w) := by
  cases hd : l.droppedWhileBusy with
  | false =>
    rw [sameButCoef_iff]
    cases l with
    | cmd | coef | point => cases hd
    | _ => exact ⟨m, rfl, h⟩
  | true =>
    cases hb : s.busy with
    | true =>
      rw [serveWrite_of_busy hb hd, serveWrite_of_busy (s := { s with mem := m }) hb hd, sameButCoef_iff]
      exact ⟨m, rfl, h⟩
    | false =>
      cases l with
      | coef k =>
        rw [serveWrite_coef_of_idle hb, serveWrite_coef_of_idle (s := { s with mem := m }) hb, sameButCoef_iff]
        exact ⟨_, rfl, h.writeCoef (t := { s with mem := m }) k _⟩
      | point j =>
        rw [serveWrite_point_of_idle hb, serveWrite_point_of_idle (s := { s with mem := m }) hb,
          sameButCoef_iff]
        exact ⟨_, rfl, h.writePoint (t := { s with mem := m }) _ _⟩
      | cmd =>
        rw [sameButCoef_iff]
        exact ⟨m, accept_with_mem s m w, by rwa [State.serveWrite, accept_mem]⟩
      | _ => cases hd

theorem SameButCoef.reply {s t : State} (h : SameButCoef s t) (r : Reply) :
    SameButCoef (s.reply r) (t.reply r) := by
  obtain ⟨m, rfl, hpoints⟩ := sameButCoef_iff.mp h
  exact ⟨rfl, hpoints⟩

theorem SameButCoef.advance {s t : State} (h : SameButCoef s t) : SameButCoef s.advance t.advance := by
  obtain ⟨m, rfl, hpoints⟩ := sameButCoef_iff.mp h
  exact ⟨rfl, hpoints⟩

/-- 20 R60, 60 R183: an access leaves the difference where it was and is answered alike. -/
theorem SameButCoef.serve {s t : State} (h : SameButCoef s t) (a : BusOp) :
    SameButCoef (s.serve a) (t.serve a) := by
  obtain ⟨m, rfl, hpoints⟩ := sameButCoef_iff.mp h
  cases a with
  | read addr size =>
    cases ht : target addr size with
    | none =>
      rw [serve_read_of_target_none _ ht, serve_read_of_target_none _ ht]
      exact ⟨rfl, hpoints⟩
    | some l =>
      simp only [State.serve, ht, hpoints.serveRead]
      exact ⟨rfl, hpoints⟩
  | write addr size w =>
    cases ht : target addr size with
    | none =>
      rw [serve_write_of_target_none _ w ht, serve_write_of_target_none _ w ht]
      exact ⟨rfl, hpoints⟩
    | some l =>
      rw [serve_write_of_target _ w ht, serve_write_of_target _ w ht]
      exact (hpoints.serveWrite l w).reply _

/-- The states the host's next access is served in. -/
theorem SameButCoef.takeLine {s t : State} (h : SameButCoef s t) (rest : List HostOp) :
    SameButCoef { s with host := rest, slack := s.slack - 1 } { t with host := rest, slack := t.slack - 1 } := by
  obtain ⟨m, rfl, hpoints⟩ := sameButCoef_iff.mp h
  exact ⟨rfl, hpoints⟩

theorem SameButCoef.hostStep {s t : State} (h : SameButCoef s t) :
    SameButCoef (Machine.hostStep s) (Machine.hostStep t) := by
  have hhost : t.host = s.host := by rw [h.rest]
  cases hh : s.host with
  | nil => simpa only [Machine.hostStep, hhost, hh] using h
  | cons op rest =>
    cases op with
    | access a =>
      rw [hostStep_access hh, hostStep_access (hhost.trans hh)]
      exact ((h.takeLine rest).serve a).advance
    | wait =>
      rw [hostStep_wait hh, hostStep_wait (hhost.trans hh)]
      obtain ⟨m, rfl, hpoints⟩ := sameButCoef_iff.mp h
      exact ⟨rfl, hpoints⟩

theorem SameButCoef.initStep {s t : State} (h : SameButCoef s t) :
    SameButCoef (Machine.initStep s) (Machine.initStep t) := by
  obtain ⟨m, rfl, hpoints⟩ := sameButCoef_iff.mp h
  exact ⟨by simp only [Machine.initStep], hpoints⟩

/-! Completions -/

theorem SamePoints.pointFaults {s : State} {m : Memory} (h : SamePoints s.mem m) (n : Byte) :
    State.pointFaults { s with mem := m } n.toNat = s.pointFaults n.toNat := by
  have hheld : State.pointsHeld { s with mem := m } n.toNat = s.pointsHeld n.toNat := by
    rw [Bool.eq_iff_iff]
    simp only [State.pointsHeld, List.all_eq_true, List.mem_range]
    refine forall₂_congr fun j hj => ?_
    rw [h.pointEntry (hj.trans n.isLt)]
  simp only [State.pointFaults, hheld]

/-- 60 R183: only EVAL returns what depends on COEF. -/
theorem SamePoints.outcomeOf {s : State} {m : Memory} (h : SamePoints s.mem m) {i : Instr}
    (hi : ∀ n x, i ≠ .eval n x) : outcomeOf i { s with mem := m } = outcomeOf i s := by
  cases i with
  | eval n x => exact absurd rfl (hi n x)
  | lagr n =>
    have hlagrange := lagrange_congr s.tables (n := n.toNat) fun j hj => h.pointOperand (hj.trans n.isLt)
    simp only [Machine.outcomeOf, hlagrange, h.pointFaults]
  | _ => rfl

end Sys2Proof.Machine
end

section
/-! What the host learns of COEF (20 R60, 60 R179, R183). -/

namespace Sys2Proof.Machine

/-- Settles O60: the two machines take the same agent's step, and each step keeps the relation. -/
theorem coefHiddenFromHost : Obligations.CoefHiddenFromHost := by
  intro s t s' h hstep hother
  suffices hnext : ∃ t', step t = .next t' ∧ SameButCoef s' t' by
    obtain ⟨t', ht', hsame⟩ := hnext
    exact ⟨t', ht', hsame, by rw [hsame.rest]⟩
  obtain ⟨m, rfl, hpoints⟩ := sameButCoef_iff.mp h
  have hagent : nextAgent { s with mem := m } = nextAgent s := rfl
  obtain ⟨ha, rfl⟩ | ⟨ha, rfl⟩ | ⟨ha, i, hi, rfl⟩ | ⟨ha, rfl⟩ := step_cases s s' hstep <;>
    rw [ha] at hagent
  · exact ⟨_, by simp only [step, hagent], h.hostStep⟩
  · exact ⟨_, by simp only [step, hagent], h.initStep⟩
  · have hi' : ∀ n x, i ≠ .eval n x := by
      rintro n x rfl
      exact hother ha n x hi
    have hfetch : fetchCommand { s with mem := m } = .cmd i := hi
    refine ⟨_, by simp only [step, hagent, hfetch, exec_eq_complete]; rfl, ?_⟩
    rw [hpoints.outcomeOf hi']
    exact ⟨rfl, hpoints⟩
  · exact ⟨_, by simp only [step, hagent], h⟩

end Sys2Proof.Machine
end

section
/-! SUPPORT. Reference multiplication (40 R101) as multiplication of polynomials over the two-element field
modulo POLY: a bit vector is the polynomial whose coefficients are its bits. -/

namespace Sys2Proof.Machine

open Polynomial

/-! A bit vector as a polynomial -/

noncomputable def toPoly {w : Nat} (v : BitVec w) : (ZMod 2)[X] :=
  ∑ i ∈ Finset.range w, if v.getLsbD i then X ^ i else 0

theorem coeff_toPoly {w : Nat} (v : BitVec w) (i : Nat) :
    (toPoly v).coeff i = if v.getLsbD i then 1 else 0 := by
  have hterm : ∀ k, (if v.getLsbD k then X ^ k else 0 : (ZMod 2)[X]).coeff i =
      if i = k then (if v.getLsbD i then 1 else 0) else 0 := by
    intro k
    by_cases hik : i = k
    · rw [if_pos hik, ← hik]
      split_ifs <;> simp
    · split_ifs <;> simp [coeff_X_pow, hik]
  simp only [toPoly, finsetSum_coeff, hterm, Finset.sum_ite_eq, Finset.mem_range]
  by_cases hi : i < w
  · simp [hi]
  · simp [hi, BitVec.getLsbD_of_ge v i (Nat.le_of_not_lt hi)]

theorem degree_toPoly_lt {w : Nat} (v : BitVec w) : (toPoly v).degree < w := by
  rw [degree_lt_iff_coeff_zero]
  intro i hi
  simp [coeff_toPoly, BitVec.getLsbD_of_ge v i hi]

theorem toPoly_injective {w : Nat} : Function.Injective (toPoly (w := w)) := by
  intro u v h
  apply BitVec.eq_of_getLsbD_eq
  intro i _
  have hcoeff := congrArg (coeff · i) h
  simp only [coeff_toPoly] at hcoeff
  cases hu : u.getLsbD i <;> cases hv : v.getLsbD i <;> simp [hu, hv] at hcoeff ⊢

/-- Every polynomial of degree below the width is a bit vector. -/
theorem exists_toPoly_eq {w : Nat} {f : (ZMod 2)[X]} (h : f.degree < w) : ∃ v : BitVec w, toPoly v = f := by
  refine ⟨BitVec.ofFnLE fun i => decide (f.coeff i = 1), Polynomial.ext fun i => ?_⟩
  rw [coeff_toPoly, BitVec.getLsbD_ofFnLE]
  have hbit : ∀ c : ZMod 2, (if c = 1 then 1 else 0) = c := by decide
  by_cases hi : i < w
  · simp [hi, hbit]
  · simp [hi, (degree_lt_iff_coeff_zero f w).mp h i (Nat.le_of_not_lt hi)]

theorem toPoly_zero (w : Nat) : toPoly (0 : BitVec w) = 0 := by
  ext i
  simp [coeff_toPoly]

theorem toPoly_one : toPoly (0x01 : Byte) = 1 := by
  ext i
  rw [coeff_toPoly, coeff_one]
  by_cases hi : i = 0
  · simp [hi]
  · simp [hi]

theorem toPoly_xor {w : Nat} (u v : BitVec w) : toPoly (u ^^^ v) = toPoly u + toPoly v := by
  ext i
  rw [coeff_add, coeff_toPoly, coeff_toPoly, coeff_toPoly, BitVec.getLsbD_xor]
  cases u.getLsbD i <;> cases v.getLsbD i <;> decide

theorem toPoly_shiftLeft {w n k : Nat} (v : BitVec w) (h : w + k ≤ n) :
    toPoly (v.setWidth n <<< k) = X ^ k * toPoly v := by
  ext i
  rw [coeff_toPoly, coeff_X_pow_mul', coeff_toPoly, BitVec.getLsbD_shiftLeft, BitVec.getLsbD_setWidth]
  by_cases hk : k ≤ i
  · by_cases hi : i < n
    · simp [hk, hi, show i - k < n by omega, Nat.not_lt.mpr hk]
    · simp [hk, hi, BitVec.getLsbD_of_ge v (i - k) (by omega)]
  · simp [hk, Nat.lt_of_not_le hk]

/-! The carry-less product -/

/-- 40 R101: the loop of `clmul` multiplies by the low bits of the second operand. -/
theorem toPoly_clmulTo (a b : Byte) {i : Nat} (hi : i ≤ 8) :
    toPoly (clmulTo a b i) =
      toPoly a * ∑ k ∈ Finset.range i, if b.getLsbD k then (X : (ZMod 2)[X]) ^ k else 0 := by
  induction i with
  | zero => simpa [clmulTo] using toPoly_zero 15
  | succ i ih =>
    rw [Finset.sum_range_succ, mul_add, ← ih (by omega), clmulTo]
    split_ifs
    · rw [toPoly_xor, toPoly_shiftLeft a (by omega), mul_comm (toPoly a)]
    · simp

theorem toPoly_clmul (a b : Byte) : toPoly (clmul a b) = toPoly a * toPoly b :=
  toPoly_clmulTo a b le_rfl

/-! Reduction -/

/-- 40 R101: the loop of `reduce` changes the polynomial by multiples of POLY. -/
theorem dvd_toPoly_reduceFrom (poly : BitVec 9) {k : Nat} (hk : k ≤ 7) (p : BitVec 15) :
    toPoly poly ∣ toPoly (reduceFrom poly k p) - toPoly p := by
  induction k generalizing p with
  | zero => simp [reduceFrom]
  | succ k ih =>
    rw [reduceFrom]
    split_ifs
    · have hstep := ih (by omega) (p ^^^ (poly.setWidth 15 <<< k))
      rw [toPoly_xor, toPoly_shiftLeft poly (by omega), ← sub_sub] at hstep
      exact (dvd_sub_left (dvd_mul_left _ _)).mp hstep
    · exact ih (by omega) p

/-- 40 R101: after the loop of `reduce` no bit above bit 7 is left. -/
theorem reduceFrom_high_bits {poly : BitVec 9} (h8 : poly.getLsbD 8 = true) {k : Nat} (hk : k ≤ 7)
    {p : BitVec 15} (hp : ∀ i, k + 8 ≤ i → p.getLsbD i = false) :
    ∀ i, 8 ≤ i → (reduceFrom poly k p).getLsbD i = false := by
  induction k generalizing p with
  | zero => simpa [reduceFrom] using hp
  | succ k ih =>
    rw [reduceFrom]
    refine ih (by omega) fun i hi => ?_
    obtain rfl | hgt := Nat.eq_or_lt_of_le hi
    · split_ifs with hbit
      · rw [BitVec.getLsbD_xor, hbit, BitVec.getLsbD_shiftLeft, BitVec.getLsbD_setWidth,
          Nat.add_sub_cancel_left, h8]
        simp [show k + 8 < 15 by omega]
      · simpa using hbit
    · have hpi := hp i (by omega)
      have hpoly : poly.getLsbD (i - k) = false := BitVec.getLsbD_of_ge _ _ (by omega)
      split_ifs <;> simp [hpi, hpoly]

theorem toPoly_setWidth {w n : Nat} {v : BitVec w} (h : ∀ i, n ≤ i → v.getLsbD i = false) :
    toPoly (v.setWidth n) = toPoly v := by
  ext i
  rw [coeff_toPoly, coeff_toPoly, BitVec.getLsbD_setWidth]
  by_cases hi : i < n
  · simp [hi]
  · simp [hi, h i (Nat.le_of_not_lt hi)]

/-- 40 R101: `gf_mul_ref` is multiplication modulo POLY. -/
theorem dvd_toPoly_gfMulRef {poly : BitVec 9} (h8 : poly.getLsbD 8 = true) (a b : Byte) :
    toPoly poly ∣ toPoly (gfMulRef poly a b) - toPoly a * toPoly b := by
  have hhigh := reduceFrom_high_bits h8 (k := 7) le_rfl (p := clmul a b)
    fun i hi => BitVec.getLsbD_of_ge _ _ hi
  rw [gfMulRef, reduce, toPoly_setWidth hhigh, ← toPoly_clmul]
  exact dvd_toPoly_reduceFrom poly le_rfl _

/-! The ring of polynomials modulo POLY -/

theorem degree_toPoly_poly {poly : BitVec 9} (h8 : poly.getLsbD 8 = true) : (toPoly poly).degree = 8 := by
  have hle : (toPoly poly).degree ≤ (8 : Nat) :=
    (degree_le_iff_coeff_zero _ _).mpr fun i hi =>
      (degree_lt_iff_coeff_zero _ 9).mp (degree_toPoly_lt poly) i (Nat.cast_lt.mp hi)
  exact degree_eq_of_le_of_coeff_ne_zero hle (by simp [coeff_toPoly, h8])

theorem monic_toPoly_poly {poly : BitVec 9} (h8 : poly.getLsbD 8 = true) : (toPoly poly).Monic :=
  monic_of_degree_le 8 (degree_toPoly_poly h8).le (by simp [coeff_toPoly, h8])

/-- The class of a byte modulo POLY. -/
noncomputable def toRing (poly : BitVec 9) (a : Byte) : AdjoinRoot (toPoly poly) :=
  AdjoinRoot.mk (toPoly poly) (toPoly a)

theorem toRing_zero (poly : BitVec 9) : toRing poly 0x00 = 0 := by
  rw [toRing, show toPoly (0x00 : Byte) = 0 from toPoly_zero 8, map_zero]

theorem toRing_one (poly : BitVec 9) : toRing poly 0x01 = 1 := by
  rw [toRing, toPoly_one, map_one]

theorem toRing_gfAdd (poly : BitVec 9) (a b : Byte) :
    toRing poly (gfAdd a b) = toRing poly a + toRing poly b := by
  rw [toRing, gfAdd, toPoly_xor, map_add, toRing, toRing]

section
variable {poly : BitVec 9} (h8 : poly.getLsbD 8 = true)
include h8

theorem toRing_gfMulRef (a b : Byte) : toRing poly (gfMulRef poly a b) = toRing poly a * toRing poly b := by
  rw [toRing, toRing, toRing, ← map_mul, AdjoinRoot.mk_eq_mk]
  exact dvd_toPoly_gfMulRef h8 a b

theorem toRing_gfPow (gen : Byte) (i : Nat) : toRing poly (gfPow poly gen i) = toRing poly gen ^ i := by
  induction i with
  | zero => rw [gfPow, toRing_one, pow_zero]
  | succ i ih => rw [gfPow, toRing_gfMulRef h8, ih, pow_succ]

theorem toRing_injective : Function.Injective (toRing poly) := by
  intro a b h
  rw [toRing, toRing, AdjoinRoot.mk_eq_mk] at h
  have hdegree : (toPoly a - toPoly b).degree < (toPoly poly).degree := by
    rw [degree_toPoly_poly h8]
    exact (degree_sub_le _ _).trans_lt (max_lt (degree_toPoly_lt a) (degree_toPoly_lt b))
  exact toPoly_injective (sub_eq_zero.mp (eq_zero_of_dvd_of_degree_lt h hdegree))

theorem toRing_surjective : Function.Surjective (toRing poly) := by
  intro r
  obtain ⟨f, rfl⟩ := AdjoinRoot.mk_surjective r
  have hdegree : (f %ₘ toPoly poly).degree < 8 := by
    rw [← degree_toPoly_poly h8]
    exact degree_modByMonic_lt f (monic_toPoly_poly h8)
  obtain ⟨a, ha⟩ := exists_toPoly_eq (w := 8) hdegree
  refine ⟨a, ?_⟩
  rw [toRing, ha, AdjoinRoot.mk_eq_mk]
  exact dvd_modByMonic_sub f (toPoly poly)

theorem card_ring : Nat.card (AdjoinRoot (toPoly poly)) = 256 := by
  rw [← Nat.card_eq_of_bijective _ ⟨toRing_injective h8, toRing_surjective h8⟩,
    Nat.card_congr BitVec.equivFin.toEquiv, Nat.card_eq_fintype_card, Fintype.card_fin]
  rfl

end

end Sys2Proof.Machine
end

section
/-! SUPPORT. A ring of 256 elements in which 255 powers of one element are distinct is a field with that
element as generator; and the tables of a valid configuration as the powers and logarithms in it (00 R7,
40 R102, R103). -/

namespace Sys2Proof.Machine

/-! A generator makes a field -/

section
theorem finite_of_card_256 {R : Type} (hcard : Nat.card R = 256) : Finite R :=
  Nat.finite_of_card_ne_zero (by rw [hcard]; decide)

theorem nontrivial_of_card_256 {R : Type} (hcard : Nat.card R = 256) : Nontrivial R := by
  have := finite_of_card_256 hcard
  exact Finite.one_lt_card_iff_nontrivial.mp (by rw [hcard]; decide)

variable {R : Type} [CommRing R] {g : R} (hcard : Nat.card R = 256)
  (hpow : Set.InjOn (fun i : Nat => g ^ i) (Set.Iio 255))
include hcard hpow

/-- The multiples of g are an additive subgroup with at least 254 elements, so they are all of the ring. -/
theorem isUnit_of_distinct_powers : IsUnit g := by
  have := finite_of_card_256 hcard
  have hpower : ∀ i : Fin 254, g ^ (i.val + 1) ∈ (AddMonoidHom.mulLeft g).range := fun i =>
    ⟨g ^ i.val, (pow_succ' g i.val).symm⟩
  have hlower : 254 ≤ Nat.card (AddMonoidHom.mulLeft g).range := by
    have hinj : Function.Injective fun i : Fin 254 =>
        (⟨g ^ (i.val + 1), hpower i⟩ : (AddMonoidHom.mulLeft g).range) := by
      intro i j hij
      have := hpow (Set.mem_Iio.mpr (by omega)) (Set.mem_Iio.mpr (by omega)) (congrArg Subtype.val hij)
      exact Fin.ext (Nat.succ.inj this)
    simpa using Nat.card_le_card_of_injective _ hinj
  have htop : (AddMonoidHom.mulLeft g).range = ⊤ := by
    refine AddSubgroup.eq_top_of_card_eq _ ?_
    obtain ⟨c, hc⟩ := AddSubgroup.card_addSubgroup_dvd_card (AddMonoidHom.mulLeft g).range
    rw [hcard] at hc ⊢
    obtain rfl : c = 1 := by nlinarith
    rw [hc, mul_one]
  obtain ⟨x, hx⟩ : (1 : R) ∈ (AddMonoidHom.mulLeft g).range := htop ▸ AddSubgroup.mem_top 1
  exact IsUnit.of_mul_eq_one x hx

/-- 255 distinct units are all the 255 elements that are not zero. -/
theorem exists_pow_eq_of_ne_zero {x : R} (hx : x ≠ 0) : ∃ i, i < 255 ∧ g ^ i = x := by
  classical
  have := finite_of_card_256 hcard
  have := nontrivial_of_card_256 hcard
  have := Fintype.ofFinite R
  have hsub : (Finset.range 255).image (g ^ ·) ⊆ Finset.univ.erase 0 := by
    intro y hy
    obtain ⟨i, -, rfl⟩ := Finset.mem_image.mp hy
    exact Finset.mem_erase.mpr ⟨((isUnit_of_distinct_powers hcard hpow).pow i).ne_zero, Finset.mem_univ _⟩
  have hcards : (Finset.univ.erase (0 : R)).card ≤ ((Finset.range 255).image (g ^ ·)).card := by
    rw [Finset.card_image_of_injOn (by simpa using hpow), Finset.card_range,
      Finset.card_erase_of_mem (Finset.mem_univ _), Finset.card_univ, ← Nat.card_eq_fintype_card, hcard]
  have hmem : x ∈ (Finset.range 255).image (g ^ ·) := by
    rw [Finset.eq_of_subset_of_card_le hsub hcards]
    exact Finset.mem_erase.mpr ⟨hx, Finset.mem_univ _⟩
  simpa using hmem

theorem pow_255_eq_one : g ^ 255 = 1 := by
  have := nontrivial_of_card_256 hcard
  have hunit := isUnit_of_distinct_powers hcard hpow
  obtain ⟨i, hi, heq⟩ := exists_pow_eq_of_ne_zero hcard hpow (hunit.pow 255).ne_zero
  have hone : g ^ (255 - i) = 1 := by
    refine (hunit.pow i).mul_left_cancel ?_
    rw [← pow_add, mul_one, heq, Nat.add_sub_cancel' hi.le]
  obtain rfl | hpos := i.eq_zero_or_pos
  · exact hone
  · have hzero : 255 - i = 0 :=
      hpow (Set.mem_Iio.mpr (by omega)) (Set.mem_Iio.mpr (by decide)) (hone.trans (pow_zero g).symm)
    omega

theorem isField_of_distinct_powers : IsField R where
  exists_pair_ne := (nontrivial_of_card_256 hcard).exists_pair_ne
  mul_comm := mul_comm
  mul_inv_cancel := by
    intro x hx
    obtain ⟨i, hi, rfl⟩ := exists_pow_eq_of_ne_zero hcard hpow hx
    exact ⟨g ^ (255 - i), by rw [← pow_add, Nat.add_sub_cancel' hi.le, pow_255_eq_one hcard hpow]⟩

end

/-! The powers of GEN -/

theorem Params.poly_bit (p : Params) : p.poly.getLsbD 8 = true :=
  (Bool.and_eq_true_iff.mp p.valid).1

/-- 00 R7: the powers of GEN below the 255th are distinct. -/
theorem Params.gfPow_injOn (p : Params) : Set.InjOn (gfPow p.poly p.gen) (Set.Iio 255) := by
  have hnodup := of_decide_eq_true (Bool.and_eq_true_iff.mp p.valid).2
  intro i hi j hj h
  rw [Set.mem_Iio] at hi hj
  rw [← tableBuild_exp p.poly p.gen i hi, ← tableBuild_exp p.poly p.gen j hj,
    ← Vector.getElem_toList (by simpa using hi), ← Vector.getElem_toList (by simpa using hj)] at h
  exact (hnodup.getElem_inj_iff).mp h

theorem Params.pow_injOn (p : Params) :
    Set.InjOn (fun i : Nat => toRing p.poly p.gen ^ i) (Set.Iio 255) := by
  intro i hi j hj h
  simp only [← toRing_gfPow p.poly_bit] at h
  exact p.gfPow_injOn hi hj (toRing_injective p.poly_bit h)

/-- What the bytes of a configuration are in its field. -/
structure Represents (p : Params) {K : Type} [Field K] (φ : Byte → K) : Prop where
  injective : Function.Injective φ
  map_one : φ 1#8 = 1
  map_gfAdd : ∀ a b, φ (gfAdd a b) = φ a + φ b
  map_gfMulRef : ∀ a b, φ (gfMulRef p.poly a b) = φ a * φ b
  gen_pow : φ p.gen ^ 255 = 1
  exists_pow : ∀ a, a ≠ 0#8 → ∃ i, i < 255 ∧ gfPow p.poly p.gen i = a

/-- 00 R7, 40 R101: the bytes of a valid configuration are a field with GEN as generator. -/
theorem exists_represents (p : Params) : ∃ (K : Type) (_ : Field K) (φ : Byte → K), Represents p φ := by
  have h8 := p.poly_bit
  have hfield := isField_of_distinct_powers (card_ring h8) p.pow_injOn
  let _ := hfield.toField
  exact ⟨AdjoinRoot (toPoly p.poly), hfield.toField, toRing p.poly,
    { injective := toRing_injective h8
      map_one := toRing_one p.poly
      map_gfAdd := toRing_gfAdd p.poly
      map_gfMulRef := toRing_gfMulRef h8
      gen_pow := pow_255_eq_one (card_ring h8) p.pow_injOn
      exists_pow := fun a ha => by
        have hne : toRing p.poly a ≠ 0 := fun h => ha (toRing_injective h8 (h.trans (toRing_zero _).symm))
        obtain ⟨i, hi, heq⟩ := exists_pow_eq_of_ne_zero (card_ring h8) p.pow_injOn hne
        exact ⟨i, hi, toRing_injective h8 ((toRing_gfPow h8 _ _).trans heq)⟩ }⟩

/-! The tables -/

/-- 40 R102: after i iterations LOG holds the exponent of every power taken so far. -/
theorem buildTo_log {poly : BitVec 9} {gen : Byte} (hinj : Set.InjOn (gfPow poly gen) (Set.Iio 255)) {i : Nat}
    (h : i ≤ 255) {k : Nat} (hk : k < i) :
    (buildTo poly gen i h).tables.log[(gfPow poly gen k).toNat]'(gfPow poly gen k).isLt =
      BitVec.ofNat 8 k := by
  induction i with
  | zero => omega
  | succ i ih =>
    simp only [buildTo, Vector.getElem_set, buildTo_e]
    split_ifs with heq
    · have hpow : gfPow poly gen i = gfPow poly gen k := BitVec.eq_of_toNat_eq heq
      rw [hinj (Set.mem_Iio.mpr (by omega)) (Set.mem_Iio.mpr (by omega)) hpow]
    · obtain hki | rfl := Nat.lt_succ_iff_lt_or_eq.mp hk
      · exact ih (by omega) hki
      · exact absurd rfl heq

/-- 40 R102: the last line, LOG[0] <- 0x00. -/
theorem tableBuild_log_zero (poly : BitVec 9) (gen : Byte) : (tableBuild poly gen).log[0] = 0x00 :=
  Vector.getElem_set_self _

/-- 40 R103: LOG of a power of GEN that is not 0 is its exponent. -/
theorem tableBuild_log {poly : BitVec 9} {gen : Byte} (hinj : Set.InjOn (gfPow poly gen) (Set.Iio 255)) {k : Nat}
    (hk : k < 255) (hne : gfPow poly gen k ≠ 0#8) :
    (tableBuild poly gen).logOf (gfPow poly gen k) = BitVec.ofNat 8 k := by
  have hne' : 0 ≠ (gfPow poly gen k).toNat := fun h => hne (BitVec.eq_of_toNat_eq h.symm)
  have hlog := buildTo_log hinj (Nat.le_refl 255) hk
  unfold tableBuild Tables.logOf
  generalize buildTo poly gen 255 (Nat.le_refl 255) = st at hlog ⊢
  rw [← hlog]
  exact Vector.getElem_set_ne (by decide) _ hne'

theorem Params.expOf_eq (p : Params) (s : Nat) : p.tables.expOf s = gfPow p.poly p.gen (s % 255) :=
  tableBuild_exp p.poly p.gen (s % 255) (Nat.mod_lt s (by decide))

/-! What the tables and their operations are in the field -/

theorem gfMul_of_ne_zero (t : Tables) {a b : Byte} (ha : a ≠ 0#8) (hb : b ≠ 0#8) :
    gfMul t a b = t.expOf ((t.logOf a).toNat + (t.logOf b).toNat) :=
  if_neg (not_or.mpr ⟨ha, hb⟩)

theorem gfDiv_of_ne_zero (t : Tables) {a b : Byte} (ha : a ≠ 0#8) (hb : b ≠ 0#8) :
    (gfDiv t a b).1 = t.expOf ((t.logOf a).toNat + 255 - (t.logOf b).toNat) :=
  if_neg (not_or.mpr ⟨ha, hb⟩)

namespace Represents

variable {p : Params} {K : Type} [Field K] {φ : Byte → K} (h : Represents p φ)
include h

theorem map_zero : φ 0#8 = 0 := by
  have hadd := h.map_gfAdd 0#8 0#8
  rwa [show gfAdd 0#8 0#8 = 0#8 from rfl, eq_comm, add_eq_left] at hadd

theorem add_self (a : Byte) : φ a + φ a = 0 := by
  rw [← h.map_gfAdd, gfAdd_eq_zero_iff.mpr rfl, h.map_zero]

theorem eq_zero_iff {a : Byte} : φ a = 0 ↔ a = 0#8 := by
  rw [← h.map_zero, h.injective.eq_iff]

theorem map_gfPow (i : Nat) : φ (gfPow p.poly p.gen i) = φ p.gen ^ i := by
  induction i with
  | zero => exact h.map_one.trans (pow_zero _).symm
  | succ i ih => rw [gfPow, h.map_gfMulRef, ih, pow_succ]

theorem gen_ne_zero : φ p.gen ≠ 0 := by
  intro hzero
  have hone := h.gen_pow
  simp [hzero] at hone

theorem gfPow_ne_zero (i : Nat) : gfPow p.poly p.gen i ≠ 0#8 := by
  rw [ne_eq, ← h.eq_zero_iff, h.map_gfPow]
  exact pow_ne_zero i h.gen_ne_zero

theorem map_expOf (s : Nat) : φ (p.tables.expOf s) = φ p.gen ^ s := by
  rw [p.expOf_eq, h.map_gfPow, ← pow_eq_pow_mod s h.gen_pow]

theorem logOf_gfPow {i : Nat} (hi : i < 255) : (p.tables.logOf (gfPow p.poly p.gen i)).toNat = i := by
  rw [Params.tables, tableBuild_log p.gfPow_injOn hi (h.gfPow_ne_zero i), BitVec.toNat_ofNat]
  omega

/-- 40 R103: LOG of a byte other than 0 is its discrete logarithm. -/
theorem gen_pow_logOf {a : Byte} (ha : a ≠ 0#8) :
    (p.tables.logOf a).toNat < 255 ∧ φ p.gen ^ (p.tables.logOf a).toNat = φ a := by
  obtain ⟨i, hi, rfl⟩ := h.exists_pow a ha
  rw [h.logOf_gfPow hi, h.map_gfPow]
  exact ⟨hi, rfl⟩

/-- 40 R105, R106: the table product is the product. -/
theorem map_gfMul (a b : Byte) : φ (gfMul p.tables a b) = φ a * φ b := by
  by_cases ha : a = 0#8
  · simp [gfMul, ha, h.map_zero]
  by_cases hb : b = 0#8
  · simp [gfMul, hb, h.map_zero]
  rw [gfMul_of_ne_zero _ ha hb, h.map_expOf, pow_add, (h.gen_pow_logOf ha).2, (h.gen_pow_logOf hb).2]

/-- 40 R107: the table quotient is the quotient, and 0 for a zero divisor. -/
theorem map_gfDiv (a b : Byte) : φ (gfDiv p.tables a b).1 = φ a / φ b := by
  by_cases ha : a = 0#8
  · simp [gfDiv, ha, h.map_zero]
  by_cases hb : b = 0#8
  · simp [gfDiv, hb, h.map_zero]
  obtain ⟨hlog, hb'⟩ := h.gen_pow_logOf hb
  rw [eq_div_iff (by rwa [ne_eq, h.eq_zero_iff]), gfDiv_of_ne_zero _ ha hb,
    h.map_expOf, ← hb', ← pow_add, Nat.sub_add_cancel (by omega),
    pow_add, h.gen_pow, mul_one, (h.gen_pow_logOf ha).2]

end Represents

end Sys2Proof.Machine
end

section
/-! The tables and the field operations, for every valid configuration (00 R7, 40 R101-R110, R115). -/

namespace Sys2Proof.Machine

/-- Settles O22, each named pair by evaluating the check's fast form. -/
theorem namedConfigurations : Obligations.NamedConfigurations := by
  refine ⟨validPair_default, ?_, ?_, ?_, fun poly gen h => by simp only [validPair, h, Bool.false_and]⟩
  all_goals
    rw [validPair_eq]
    decide +kernel

/-- 40 R102: multiplying by 0x02 shifts, and takes POLY away when bit 7 is shifted out. -/
theorem gfMulRef_two (poly : BitVec 9) (e : Byte) :
    gfMulRef poly e 0x02 = (e <<< 1) ^^^ (if e.getLsbD 7 then poly.setWidth 8 else 0x00) := by
  have hclmul : clmul e 0x02 = e.setWidth 15 <<< 1 := by simp [clmul, clmulTo]
  have hlow : (e.setWidth 15 <<< 1).setWidth 8 = e <<< 1 := by
    apply BitVec.eq_of_getLsbD_eq
    intro i hi
    simp [hi]
  rw [gfMulRef, hclmul, reduce]
  by_cases hbit : e.getLsbD 7 = true
  · rw [if_pos hbit]
    simp [reduceFrom, show e[7] = true from hbit, hlow]
  · rw [if_neg hbit]
    simp [reduceFrom, show ¬ e[7] = true from hbit, hlow]

/-- Settles O23: EXP holds the loop's e, and the last line writes LOG[0]. -/
theorem tablesArePowersOfGen : Obligations.TablesArePowersOfGen := by
  intro poly gen
  refine ⟨tableBuild_exp poly gen 0 (by decide), fun i hi => ?_, tableBuild_log_zero poly gen,
    fun _ => gfMulRef_two poly⟩
  rw [tableBuild_exp poly gen (i + 1) hi, tableBuild_exp poly gen i (by omega), gfPow]

/-- 40 R103, for the tables of one valid configuration. -/
theorem Params.table_laws (p : Params) :
    p.tables.exp[0] = 0x01 ∧ p.tables.log[1] = 0 ∧
    (∀ (i : Nat) (h : i < 255), (p.tables.logOf (p.tables.exp[i]'h)).toNat = i) ∧
    (∀ x : Byte, x ≠ 0 → (p.tables.logOf x).toNat < 255 ∧ p.tables.expOf (p.tables.logOf x).toNat = x) ∧
    gfMulRef p.poly p.tables.exp[254] p.gen = 0x01 := by
  obtain ⟨K, _, φ, h⟩ := exists_represents p
  refine ⟨tableBuild_exp p.poly p.gen 0 (by decide), ?_, fun i hi => ?_, fun x hx => ?_, ?_⟩
  · exact tableBuild_log p.gfPow_injOn (k := 0) (by decide) (h.gfPow_ne_zero 0)
  · have hexp : p.tables.exp[i] = gfPow p.poly p.gen i := tableBuild_exp p.poly p.gen i hi
    rw [hexp, h.logOf_gfPow hi]
  · obtain ⟨hlt, hpow⟩ := h.gen_pow_logOf hx
    exact ⟨hlt, h.injective ((h.map_expOf _).trans hpow)⟩
  · apply h.injective
    have hlast : p.tables.exp[254] = gfPow p.poly p.gen 254 := tableBuild_exp p.poly p.gen 254 (by decide)
    rw [h.map_gfMulRef, hlast, h.map_gfPow, ← pow_succ, h.gen_pow]
    exact h.map_one.symm

theorem getElem_of_toList {n i : Nat} {v : Vector Byte n} {a : Byte} (hi : i < n)
    (h : v.toList[i]? = some a) : v[i] = a := by
  obtain ⟨_, hget⟩ := List.getElem?_eq_some_iff.mp h
  rwa [Vector.getElem_toList] at hget

/-- An entry of EXP, from the lists the kernel evaluates quickly. -/
theorem exp_of_tablesFrom {poly : BitVec 9} {gen : Byte} {i : Nat} {a : Byte} (hi : i < 255)
    (h : (tablesFrom poly gen 255 1 (List.replicate 256 0x00)).2[i]? = some a) :
    (tableBuild poly gen).exp[i] = a := by
  have hlist := tablesFrom_exp poly gen 255 0x01 (List.replicate 256 0x00)
  refine getElem_of_toList hi ?_
  rw [tableBuild_exp_toList, ← hlist]
  exact h

/-- An entry of LOG, from the lists the kernel evaluates quickly. -/
theorem log_of_tablesFrom {poly : BitVec 9} {gen : Byte} {i : Nat} {a : Byte} (hi : i < 256)
    (h : (tablesFrom poly gen 255 1 (List.replicate 256 0x00)).1[i]? = some a) :
    (tableBuild poly gen).log[i] = a := by
  have hlist := tablesFrom_log poly gen 255 le_rfl
  have hzero : (buildTo poly gen (255 - 255) (by omega)).tables.log.toList = List.replicate 256 0x00 := by
    simp [buildTo]
  rw [hzero] at hlist
  refine getElem_of_toList hi ?_
  rw [← hlist]
  exact h

/-- 40 R103: the examples, by evaluating the default tables as lists. -/
theorem default_table_entries :
    Params.default.tables.exp[1] = 0x02 ∧ Params.default.tables.exp[8] = 0x1D ∧
    Params.default.tables.exp[254] = 0x8E ∧ Params.default.tables.log[0x02] = 0x01 ∧
    Params.default.tables.log[0x03] = 0x19 ∧ Params.default.tables.log[0xFF] = 0xAF := by
  refine ⟨exp_of_tablesFrom (by decide) ?_, exp_of_tablesFrom (by decide) ?_,
    exp_of_tablesFrom (by decide) ?_, log_of_tablesFrom (by decide) ?_,
    log_of_tablesFrom (by decide) ?_, log_of_tablesFrom (by decide) ?_⟩
  all_goals decide +kernel

/-- Settles O24: the laws for every configuration, and the examples of the default one. -/
theorem tableLaws : Obligations.TableLaws := ⟨Params.table_laws, default_table_entries⟩

/-- Settles O12: LOG[0x01] = 0x00 in the tables of a valid configuration. -/
theorem invCompletes : Obligations.InvCompletes := by
  intro b s
  refine ⟨?_, fun hb hinv hr => ?_, rfl⟩
  · rintro rfl
    exact divCompletes 0x01 0x00 s
  · have hlog : s.tables.log[1] = 0 := by
      rw [hinv.tablesBuilt hr]
      exact s.params.table_laws.2.1
    have hdiv := divCompletes 0x01 b s
    rw [if_neg hb] at hdiv
    refine hdiv.trans ?_
    simp [hlog]

/-- Settles O25: both products are the product in the field, and so is quotient times divisor. -/
theorem tableOpsAgreeWithReference : Obligations.TableOpsAgreeWithReference := by
  intro p a b
  obtain ⟨K, _, φ, h⟩ := exists_represents p
  refine ⟨h.injective ?_, fun hb => h.injective ?_⟩
  · rw [h.map_gfMul, h.map_gfMulRef]
  · rw [h.map_gfMul, h.map_gfDiv, div_mul_cancel₀ _ (mt h.eq_zero_iff.mp hb)]

/-- 40 R110: the laws of multiplication. -/
theorem gfMul_laws (p : Params) (a b c : Byte) :
    gfMul p.tables a 1 = a ∧ gfMul p.tables a 0 = 0 ∧ gfMul p.tables a b = gfMul p.tables b a ∧
    gfMul p.tables (gfMul p.tables a b) c = gfMul p.tables a (gfMul p.tables b c) ∧
    gfMul p.tables a (gfAdd b c) = gfAdd (gfMul p.tables a b) (gfMul p.tables a c) ∧
    gfMul p.tables (gfAdd a b) c = gfAdd (gfMul p.tables a c) (gfMul p.tables b c) := by
  obtain ⟨K, _, φ, h⟩ := exists_represents p
  refine ⟨h.injective ?_, gfMul_zero_right _ _, h.injective ?_, h.injective ?_, h.injective ?_, h.injective ?_⟩
  all_goals simp only [h.map_gfMul, h.map_gfAdd]
  · exact (congrArg _ h.map_one).trans (mul_one _)
  · exact mul_comm _ _
  · exact mul_assoc _ _ _
  · exact mul_add _ _ _
  · exact add_mul _ _ _

/-- 40 R110: the laws of division by a divisor other than 0. -/
theorem gfDiv_laws (p : Params) (a : Byte) {b : Byte} (hb : b ≠ 0) :
    gfMul p.tables (gfDiv p.tables a b).1 b = a ∧ gfMul p.tables (gfInv p.tables b).1 b = 1 ∧
    (gfDiv p.tables 0 b).1 = 0 ∧ (gfDiv p.tables b b).1 = 1 := by
  obtain ⟨K, _, φ, h⟩ := exists_represents p
  have hcancel := fun a => (tableOpsAgreeWithReference p a b).2 hb
  refine ⟨hcancel a, hcancel 1, by simp [gfDiv], h.injective ?_⟩
  rw [h.map_gfDiv, div_self (mt h.eq_zero_iff.mp hb)]
  exact h.map_one.symm

/-- Settles O26: addition is exclusive or, and the others are laws of the field. -/
theorem fieldLaws : Obligations.FieldLaws := fun p a b c =>
  ⟨⟨BitVec.xor_self, BitVec.xor_zero, BitVec.xor_comm a b, BitVec.xor_assoc a b c⟩, gfMul_laws p a b c,
    gfDiv_laws p a, by simp [gfDiv]⟩

end Sys2Proof.Machine
end

section
/-! SUPPORT. The loops of EVAL and LAGR in the field (41 R132, 42 R152). -/

namespace Sys2Proof.Machine

open Polynomial

/-- The polynomial with coefficients c 0, ..., c (n-1) in the field. -/
noncomputable def coeffPoly {K : Type} [Field K] (φ : Byte → K) (c : Nat → Byte) (n : Nat) : K[X] :=
  ∑ k : Fin n, C (φ (c k)) * X ^ k.val

theorem degree_coeffPoly_lt {K : Type} [Field K] (φ : Byte → K) (c : Nat → Byte) (n : Nat) :
    (coeffPoly φ c n).degree < n :=
  degree_sum_fin_lt fun k : Fin n => φ (c k)

namespace Represents

variable {p : Params} {K : Type} [Field K] {φ : Byte → K} (h : Represents p φ)
include h

theorem map_xorSum (f : Nat → Byte) (n : Nat) : φ (xorSum f n) = ∑ k ∈ Finset.range n, φ (f k) := by
  induction n with
  | zero => exact h.map_zero
  | succ n ih => rw [xorSum, h.map_gfAdd, ih, Finset.sum_range_succ]

theorem map_tablePow (x : Byte) (k : Nat) : φ (tablePow p.tables x k) = φ x ^ k := by
  induction k with
  | zero => exact h.map_one.trans (pow_zero _).symm
  | succ k ih => rw [tablePow, h.map_gfMul, ih, pow_succ]

/-- 41 R132: Horner's form is the sum of the powers. -/
theorem map_horner (c : Nat → Byte) (x : Byte) (n : Nat) :
    φ (horner p.tables c x n) = ∑ k ∈ Finset.range n, φ (c k) * φ x ^ k := by
  induction n generalizing c with
  | zero => exact h.map_zero
  | succ n ih =>
    have hloop : horner p.tables c x (n + 1) =
        gfAdd (gfMul p.tables (horner p.tables (fun k => c (k + 1)) x n) x) (c 0) :=
      (hornerLoop p.tables c x n).2
    rw [hloop, h.map_gfAdd, h.map_gfMul, ih, Finset.sum_range_succ', Finset.sum_mul, pow_zero, mul_one]
    simp only [pow_succ, mul_assoc]

/-- 42 R152: the basis weight of point j is the product of the other points' quotients. -/
theorem map_lagrangeWeightTo (pt : Nat → Point) (j m : Nat) :
    φ (lagrangeWeightTo p.tables pt j m).1 =
      ∏ k ∈ Finset.range m, if k = j then 1 else φ (pt k).x / (φ (pt k).x + φ (pt j).x) := by
  induction m with
  | zero => exact h.map_one
  | succ m ih =>
    rw [Finset.prod_range_succ, ← ih]
    by_cases hmj : m = j
    · rw [if_pos hmj, hmj, lagrangeWeightTo_succ_self, mul_one]
    · rw [if_neg hmj, lagrangeWeightTo_succ_of_ne _ _ hmj, h.map_gfMul, h.map_gfDiv, h.map_gfAdd]

/-- 42 R152: LAGR's result is the weighted sum, with the points numbered by Fin n. -/
theorem map_lagrange (pt : Nat → Point) (n : Nat) :
    φ (lagrange p.tables pt n).1 = ∑ j : Fin n, φ (pt j).y *
      ∏ k : Fin n, if k = j then 1 else φ (pt k).x / (φ (pt k).x + φ (pt j).x) := by
  rw [lagrange, lagrangeTo_fst, h.map_xorSum, Finset.sum_range]
  simp only [h.map_gfMul, h.map_lagrangeWeightTo, Finset.prod_range, Fin.ext_iff]

theorem neg_eq (a : Byte) : -φ a = φ a := neg_eq_of_add_eq_zero_left (h.add_self a)

/-- 41 R131: the Horner loop evaluates the polynomial. -/
theorem eval_coeffPoly (c : Nat → Byte) (n : Nat) (x : Byte) :
    (coeffPoly φ c n).eval (φ x) = φ (horner p.tables c x n) := by
  rw [h.map_horner, Finset.sum_range, coeffPoly, eval_finsetSum]
  simp

/-- 42 R152: LAGR's weight of point j is the Lagrange basis polynomial of j at 0; in characteristic 2 its
signs fall away. -/
theorem eval_basis_at_zero (pt : Nat → Point) {n : Nat} (j : Fin n) :
    (Lagrange.basis Finset.univ (fun k : Fin n => φ (pt k).x) j).eval 0 =
      ∏ k : Fin n, if k = j then 1 else φ (pt k).x / (φ (pt k).x + φ (pt j).x) := by
  rw [Lagrange.basis, eval_prod, ← Finset.mul_prod_erase Finset.univ _ (Finset.mem_univ j), if_pos rfl, one_mul]
  refine Finset.prod_congr rfl fun k hk => ?_
  rw [if_neg (Finset.ne_of_mem_erase hk), Lagrange.basisDivisor, eval_mul, eval_C, eval_sub, eval_X, eval_C,
    zero_sub, h.neg_eq, sub_eq_add_neg, h.neg_eq, div_eq_inv_mul, add_comm]

/-- 42 R155: on distinct points of the polynomial LAGR is the interpolation's value at 0. -/
theorem map_lagrange_of_distinct {pt : Nat → Point} {n : Nat} (hd : DistinctX pt n) {c : Nat → Byte}
    (hy : ∀ j, j < n → (pt j).y = horner p.tables c (pt j).x n) :
    φ (lagrange p.tables pt n).1 = (coeffPoly φ c n).eval 0 := by
  have hinj : Set.InjOn (fun k : Fin n => φ (pt k).x) (Finset.univ : Finset (Fin n)) := by
    intro i _ j _ hij
    by_contra hne
    exact hd j j.isLt i i.isLt (fun heq => hne (Fin.ext heq)) (h.injective hij)
  have hinterp := Lagrange.eq_interpolate_of_eval_eq (fun k : Fin n => φ (pt k).y) hinj
    (by simpa using degree_coeffPoly_lt φ c n)
    (fun k _ => (h.eval_coeffPoly c n (pt k).x).trans (congrArg φ (hy k k.isLt).symm))
  rw [hinterp, Lagrange.interpolate_apply, eval_finsetSum, h.map_lagrange]
  simp only [eval_mul, eval_C, h.eval_basis_at_zero]

end Represents

end Sys2Proof.Machine
end

section
/-! EVAL and LAGR as mathematics (41 R132, R135, 42 R153-R157), for every valid configuration. -/

namespace Sys2Proof.Machine

/-- Settles O27: both are the same sum in the field. -/
theorem hornerIsSumOfPowers : Obligations.HornerIsSumOfPowers := by
  intro p c x n
  obtain ⟨K, _, φ, h⟩ := exists_represents p
  apply h.injective
  rw [h.map_horner, h.map_xorSum]
  simp only [h.map_gfMul, h.map_tablePow]

/-- 41 R135: at 0 only the constant term is left. -/
theorem horner_at_zero (t : Tables) (c : Nat → Byte) {n : Nat} (hn : 1 ≤ n) : horner t c 0x00 n = c 0 := by
  obtain ⟨m, rfl⟩ := Nat.exists_eq_add_of_le' hn
  rw [(hornerLoop t c 0x00 m).2]
  simp

/-- 41 R135: at 1 every power is 1. -/
theorem horner_at_one (p : Params) (c : Nat → Byte) (n : Nat) : horner p.tables c 0x01 n = xorSum c n := by
  obtain ⟨K, _, φ, h⟩ := exists_represents p
  apply h.injective
  rw [h.map_horner, h.map_xorSum, show φ 0x01 = 1 from h.map_one]
  simp only [one_pow, mul_one]

/-- Settles O21: at n = 1 the one step starts from 0. -/
theorem evalCornerCases : Obligations.EvalCornerCases := by
  intro p c x n
  refine ⟨rfl, ?_, horner_at_zero p.tables c, horner_at_one p c n⟩
  rw [(hornerLoop p.tables c x 0).2, (hornerLoop p.tables _ x 0).1]
  simp

/-! The order of the points -/

/-- 42 R153: a repeated identifier stays one under a renumbering. -/
theorem dz_of_renumbered (t : Tables) {n : Nat} (σ : Equiv.Perm (Fin n)) {f g : Nat → Point}
    (hg : ∀ j : Fin n, g j.val = f (σ j).val) (hdz : (lagrange t g n).2 = true) :
    (lagrange t f n).2 = true := by
  rw [lagrange_dz_iff] at hdz ⊢
  obtain ⟨j, k, hj, hk, hne, hx⟩ := hdz
  refine ⟨σ ⟨j, hj⟩, σ ⟨k, hk⟩, Fin.isLt _, Fin.isLt _, fun heq => ?_, ?_⟩
  · exact hne (congrArg Fin.val (σ.injective (Fin.ext heq)))
  · rw [← hg ⟨j, hj⟩, ← hg ⟨k, hk⟩, hx]

/-- Settles O28: a renumbering permutes the terms of the sum and the factors of each product. -/
theorem lagrangeOrderIndependent : Obligations.LagrangeOrderIndependent := by
  intro p n σ f g hg
  obtain ⟨K, _, φ, h⟩ := exists_represents p
  have hf : ∀ j : Fin n, f j.val = g (σ.symm j).val := fun j => by rw [hg, Equiv.apply_symm_apply]
  refine Prod.ext (h.injective ?_) (Bool.eq_iff_iff.mpr
    ⟨dz_of_renumbered p.tables σ hg, dz_of_renumbered p.tables σ.symm hf⟩)
  rw [h.map_lagrange, h.map_lagrange]
  simp only [hg]
  rw [← Equiv.sum_comp σ (fun j : Fin n => φ (f j).y *
    ∏ k : Fin n, if k = j then 1 else φ (f k).x / (φ (f k).x + φ (f j).x))]
  refine Finset.sum_congr rfl fun j _ => ?_
  rw [← Equiv.prod_comp σ (fun k : Fin n =>
    if k = σ j then 1 else φ (f k).x / (φ (f k).x + φ (f (σ j)).x))]
  simp only [σ.injective.eq_iff]

/-! Distinct identifiers -/

theorem lagrange_dz_of_distinct (t : Tables) {pt : Nat → Point} {n : Nat} (hd : DistinctX pt n) :
    (lagrange t pt n).2 = false := by
  rw [← Bool.not_eq_true, lagrange_dz_iff]
  rintro ⟨j, k, hj, hk, hne, hx⟩
  exact hd j hj k hk hne hx

/-- Settles O29: the field's Lagrange interpolation of the polynomial is the polynomial itself. -/
theorem lagrangeRecoversConstantTerm : Obligations.LagrangeRecoversConstantTerm := by
  intro p n c pt hn hd hy
  obtain ⟨K, _, φ, h⟩ := exists_represents p
  refine Prod.ext (h.injective ?_) (lagrange_dz_of_distinct p.tables hd)
  rw [h.map_lagrange_of_distinct hd hy, ← h.map_zero, h.eval_coeffPoly]
  exact congrArg φ (horner_at_zero p.tables c hn)

/-- 42 R157: with x = 0 at point z every quotient in the weight of z is 1. -/
theorem weight_of_zero_point (p : Params) {n z : Nat} {pt : Nat → Point} (hz : z < n) (hx : (pt z).x = 0)
    (hd : DistinctX pt n) : (lagrangeWeightTo p.tables pt z n).1 = 0x01 := by
  obtain ⟨K, _, φ, h⟩ := exists_represents p
  apply h.injective
  rw [h.map_lagrangeWeightTo, show φ 0x01 = 1 from h.map_one, show φ (pt z).x = 0 from h.eq_zero_iff.mpr hx]
  refine Finset.prod_eq_one fun k hk => ?_
  split_ifs with hkz
  · rfl
  · have hne : (pt k).x ≠ 0 := hx ▸ hd z hz k (Finset.mem_range.mp hk) hkz
    rw [add_zero, div_self (mt h.eq_zero_iff.mp hne)]

/-- 42 R157: with x = 0 at point z the quotient of z is 0 in the weight of every other point. -/
theorem weight_beside_zero_point (p : Params) {n z j : Nat} {pt : Nat → Point} (hz : z < n)
    (hx : (pt z).x = 0) (hj : j ≠ z) : (lagrangeWeightTo p.tables pt j n).1 = 0x00 := by
  obtain ⟨K, _, φ, h⟩ := exists_represents p
  apply h.eq_zero_iff.mp
  rw [h.map_lagrangeWeightTo]
  refine Finset.prod_eq_zero (Finset.mem_range.mpr hz) ?_
  rw [if_neg hj.symm, show φ (pt z).x = 0 from h.eq_zero_iff.mpr hx, zero_div]

/-- Settles O31: only the term of point z is left of the sum. -/
theorem lagrangeOfZeroPoint : Obligations.LagrangeOfZeroPoint := by
  intro p n pt z hz hx hd
  have hself := weight_of_zero_point p hz hx hd
  have hother := fun j (hj : j ≠ z) => weight_beside_zero_point p hz hx hj
  refine ⟨hself, fun j _ => hother j, ?_⟩
  obtain ⟨K, _, φ, h⟩ := exists_represents p
  refine Prod.ext (h.injective ?_) (lagrange_dz_of_distinct p.tables hd)
  rw [lagrange, lagrangeTo_fst, h.map_xorSum, Finset.sum_eq_single_of_mem z (Finset.mem_range.mpr hz)]
  · rw [hself]
    exact congrArg φ (gfMul_laws p (pt z).y 0 0).1
  · intro j _ hj
    rw [hother j hj]
    exact h.eq_zero_iff.mpr (gfMul_zero_right _ _)

end Sys2Proof.Machine
end
